-- ==== Sys2Proof/Word.lean ====
section
/-! DEFINITION. The machine's words: the widths the spec gives its registers (R20, R23, R24) and the two
index types that are plain numbers below 16. -/

namespace Sys2Proof

/-- An 8-bit value: a general register, a timer, a byte of memory (R20, R27, R28, R30). -/
abbrev Byte := BitVec 8

/-- A 16-bit value: the address register, the program counter, a stack slot, an instruction word
(R23, R24, R25, R90). -/
abbrev Word := BitVec 16

/-- The index of a general register, 0..15 (R20: "no index can be out of range"). -/
abbrev RegIx := Fin 16

/-- A key code, one of 16 values (R206). There is no value for a code above 15 (U6). -/
abbrev Key := Fin 16

end Sys2Proof
end

