-- ==== Sys2Proof/Syntax.lean ====
section
/-! DEFINITION. The instructions: one constructor per row of spec/opcode_table.json (R95), in the table's
order, with the operand fields the row's format gives (R91, R92). -/

namespace Sys2Proof

/-- The 34 instructions of R95. `x`, `y` index general registers, `kk` is the immediate byte, `nnn` the
12-bit address, `n` the sprite's row count. -/
inductive Instr where
  /-- `00E0` CLS (R192). -/
  | cls
  /-- `00EE` RET (R120). -/
  | ret
  /-- `1nnn` JP nnn (R121). -/
  | jp (nnn : BitVec 12)
  /-- `2nnn` CALL nnn (R122). -/
  | call (nnn : BitVec 12)
  /-- `3xkk` SE Vx, kk (R123). -/
  | seVxKk (x : RegIx) (kk : Byte)
  /-- `4xkk` SNE Vx, kk (R124). -/
  | sneVxKk (x : RegIx) (kk : Byte)
  /-- `5xy0` SE Vx, Vy (R125). -/
  | seVxVy (x y : RegIx)
  /-- `6xkk` LD Vx, kk (R141). -/
  | ldVxKk (x : RegIx) (kk : Byte)
  /-- `7xkk` ADD Vx, kk (R142). -/
  | addVxKk (x : RegIx) (kk : Byte)
  /-- `8xy0` LD Vx, Vy (R143). -/
  | ldVxVy (x y : RegIx)
  /-- `8xy1` OR Vx, Vy (R144). -/
  | orVxVy (x y : RegIx)
  /-- `8xy2` AND Vx, Vy (R145). -/
  | andVxVy (x y : RegIx)
  /-- `8xy3` XOR Vx, Vy (R146). -/
  | xorVxVy (x y : RegIx)
  /-- `8xy4` ADD Vx, Vy (R147). -/
  | addVxVy (x y : RegIx)
  /-- `8xy5` SUB Vx, Vy (R148). -/
  | subVxVy (x y : RegIx)
  /-- `8xy6` SHR Vx (R149); the field `y` is decoded and unused (R98). -/
  | shrVx (x y : RegIx)
  /-- `8xy7` SUBN Vx, Vy (R150). -/
  | subnVxVy (x y : RegIx)
  /-- `8xyE` SHL Vx (R151); the field `y` is decoded and unused (R98). -/
  | shlVx (x y : RegIx)
  /-- `9xy0` SNE Vx, Vy (R126). -/
  | sneVxVy (x y : RegIx)
  /-- `Annn` LD I, nnn (R170). -/
  | ldI (nnn : BitVec 12)
  /-- `Bnnn` JP V0, nnn (R127). -/
  | jpV0 (nnn : BitVec 12)
  /-- `Cxkk` RND Vx, kk (R152). -/
  | rndVxKk (x : RegIx) (kk : Byte)
  /-- `Dxyn` DRW Vx, Vy, n (R193); `n` is a count, 0..15 (R93). -/
  | drw (x y : RegIx) (n : Nat)
  /-- `Ex9E` SKP Vx (R200). -/
  | skpVx (x : RegIx)
  /-- `ExA1` SKNP Vx (R201). -/
  | sknpVx (x : RegIx)
  /-- `Fx07` LD Vx, DT (R203). -/
  | ldVxDT (x : RegIx)
  /-- `Fx0A` LD Vx, K (R202). -/
  | ldVxK (x : RegIx)
  /-- `Fx15` LD DT, Vx (R204). -/
  | ldDTVx (x : RegIx)
  /-- `Fx18` LD ST, Vx (R205). -/
  | ldSTVx (x : RegIx)
  /-- `Fx1E` ADD I, Vx (R171). -/
  | addIVx (x : RegIx)
  /-- `Fx29` LD F, Vx (R172). -/
  | ldFVx (x : RegIx)
  /-- `Fx33` LD B, Vx (R173). -/
  | ldBVx (x : RegIx)
  /-- `Fx55` LD [I], Vx (R174). -/
  | ldMemVx (x : RegIx)
  /-- `Fx65` LD Vx, [I] (R175). -/
  | ldVxMem (x : RegIx)
deriving DecidableEq, Repr

end Sys2Proof
end

