-- ==== Sys2Proof/Config.lean ====
section
/-! DEFINITION. What the implementation fixes (the parameters of R6), the font table the host installs
(R263), and the free values: what the outside presents, which no rule fixes (R152, R206, R233). -/

namespace Sys2Proof

/-- `MEMSIZE` (R6, R60): addresses 0..4095. -/
abbrev Config.memSize : Nat := 4096

/-- `PROG_BASE` (R6, R61): the reset value of the program counter. -/
abbrev Config.progBase : Nat := 0x200

/-- `FONT_BASE` (R6, R61). -/
abbrev Config.fontBase : Nat := 0x000

/-- `FONT_STRIDE` (R6, R172): bytes per digit sprite. -/
abbrev Config.fontStride : Nat := 5

/-- `STACK_DEPTH` (R6, R25). -/
abbrev Config.stackDepth : Nat := 16

/-- `DISP_W` (R6, R29): columns. -/
abbrev Config.dispW : Nat := 64

/-- `DISP_H` (R6, R29): rows. -/
abbrev Config.dispH : Nat := 32

/-- `SPRITE_W` (R6, R191): pixels in a sprite row. -/
abbrev Config.spriteW : Nat := 8

/-- `SPRITE_MAX_ROWS` (R6, R191). -/
abbrev Config.spriteMaxRows : Nat := 15

/-- The standard font table, 5 bytes per digit, digit 0 first (R263). CORE never inspects it. -/
def Config.fontTable : List Byte :=
  [0xF0, 0x90, 0x90, 0x90, 0xF0] ++ [0x20, 0x60, 0x20, 0x20, 0x70] ++
  [0xF0, 0x10, 0xF0, 0x80, 0xF0] ++ [0xF0, 0x10, 0xF0, 0x10, 0xF0] ++
  [0x90, 0x90, 0xF0, 0x10, 0x10] ++ [0xF0, 0x80, 0xF0, 0x10, 0xF0] ++
  [0xF0, 0x80, 0xF0, 0x90, 0xF0] ++ [0xF0, 0x10, 0x20, 0x40, 0x40] ++
  [0xF0, 0x90, 0xF0, 0x90, 0xF0] ++ [0xF0, 0x90, 0xF0, 0x10, 0xF0] ++
  [0xF0, 0x90, 0xF0, 0x90, 0x90] ++ [0xE0, 0x90, 0xE0, 0x90, 0xE0] ++
  [0xF0, 0x80, 0x80, 0x80, 0xF0] ++ [0xE0, 0x90, 0x90, 0x90, 0xE0] ++
  [0xF0, 0x80, 0xF0, 0x80, 0xF0] ++ [0xF0, 0x80, 0xF0, 0x80, 0x80]

/-- FREE VALUE (log 2): the key level the host presents at the `n`-th free presentation, `none` or one code
(R206, D27). -/
opaque Config.freeKey : Nat → Option Key

/-- FREE VALUE (log 2): the random byte the host presents at the `n`-th free presentation; any of the 256
values may arrive (R152, D19). -/
opaque Config.freeRand : Nat → Byte

/-- FREE VALUE (log 2): how many ticks occur at the boundary of the `n`-th free presentation; zero, one or
more, related to nothing (R233, D15). -/
opaque Config.freeTicks : Nat → Nat

end Sys2Proof
end

