-- ==== Sys2Proof/WellFormed.lean ====
section
/-! DEFINITION. Which instructions fit their encoding (R93), and which 16-bit words are instructions at all
(R96, whose table of illegal words is written out here on its own, apart from the decoder). -/

namespace Sys2Proof

/-- An instruction fits its format when each operand fits its field (R93). The types of `x`, `y`, `kk` and
`nnn` hold exactly their field's values; the row count of `DRW` is a count and is checked: 0..15. -/
def Instr.wellFormed : Instr → Bool
  | .cls | .ret => true
  | .jp _ | .call _ | .ldI _ | .jpV0 _ => true
  | .seVxKk _ _ | .sneVxKk _ _ | .ldVxKk _ _ | .addVxKk _ _ | .rndVxKk _ _ => true
  | .seVxVy _ _ | .sneVxVy _ _ | .ldVxVy _ _ | .orVxVy _ _ | .andVxVy _ _ | .xorVxVy _ _ => true
  | .addVxVy _ _ | .subVxVy _ _ | .shrVx _ _ | .subnVxVy _ _ | .shlVx _ _ => true
  | .drw _ _ n => n ≤ Config.spriteMaxRows
  | .skpVx _ | .sknpVx _ => true
  | .ldVxDT _ | .ldVxK _ | .ldDTVx _ | .ldSTVx _ => true
  | .addIVx _ | .ldFVx _ | .ldBVx _ | .ldMemVx _ | .ldVxMem _ => true

/-- R96: a word is legal unless its family's row of the table of illegal words names it. Each hexadecimal
digit is read off the number itself. -/
def legalWord (w : Word) : Bool :=
  let fam := w.toNat / 4096
  let nnn := w.toNat % 4096
  let kk := w.toNat % 256
  let n := w.toNat % 16
  if fam = 0x0 then nnn = 0x0E0 || nnn = 0x0EE
  else if fam = 0x5 then n = 0
  else if fam = 0x8 then !(n = 8 || n = 9 || n = 0xA || n = 0xB || n = 0xC || n = 0xD || n = 0xF)
  else if fam = 0x9 then n = 0
  else if fam = 0xE then kk = 0x9E || kk = 0xA1
  else if fam = 0xF then
    kk = 0x07 || kk = 0x0A || kk = 0x15 || kk = 0x18 || kk = 0x1E || kk = 0x29 || kk = 0x33 ||
      kk = 0x55 || kk = 0x65
  else true

end Sys2Proof
end

