-- ==== Sys2Proof/Decode.lean ====
section
/-! DEFINITION. The decoder (R90, R91, R95, R96), total on any bytes and rejecting by the family of the
illegal word, and after it the encoder, written from the same formats (R92), and the assembler's text (R99). -/

namespace Sys2Proof

/-! ### Fields of the instruction word (R91) -/

/-- `fam = op[15:12]`. -/
def opFam (op : Word) : Fin 16 := (op.extractLsb' 12 4).toFin

/-- `x = op[11:8]`. -/
def opX (op : Word) : RegIx := (op.extractLsb' 8 4).toFin

/-- `y = op[7:4]`. -/
def opY (op : Word) : RegIx := (op.extractLsb' 4 4).toFin

/-- `n = op[3:0]`. -/
def opN (op : Word) : Fin 16 := (op.extractLsb' 0 4).toFin

/-- `kk = op[7:0]`. -/
def opKk (op : Word) : Byte := op.extractLsb' 0 8

/-- `nnn = op[11:0]`. -/
def opNnn (op : Word) : BitVec 12 := op.extractLsb' 0 12

/-- The fetched word `{M[addr], M[addr+1]}`: the byte at the lower address is bits 15:8 (R64, R90). -/
def wordOfBytes (hi lo : Byte) : Word := hi ++ lo

/-- The high byte of a word. -/
def hiByte (w : Word) : Byte := w.extractLsb' 8 8

/-- The low byte of a word. -/
def loByte (w : Word) : Byte := w.extractLsb' 0 8

/-! ### Decoding -/

/-- Why bytes are no instruction: too few of them (R90), or a word of a row of R96's table. -/
inductive DecodeReject where
  /-- Fewer than two bytes. -/
  | truncated
  /-- `0nnn` other than `00E0` and `00EE` (R97). -/
  | family0
  /-- `5xyn` with `n` not 0. -/
  | family5
  /-- `8xyn` with `n` in 8..D or F. -/
  | family8
  /-- `9xyn` with `n` not 0. -/
  | family9
  /-- `Exkk` with `kk` neither 9E nor A1. -/
  | familyE
  /-- `Fxkk` with an unassigned `kk`. -/
  | familyF
deriving DecidableEq, Repr

/-- Family 0: the whole word is compared (R95). -/
def decodeFamily0 (op : Word) : Except DecodeReject Instr :=
  if op = 0x00E0 then .ok .cls
  else if op = 0x00EE then .ok .ret
  else .error .family0

/-- Family 8: `n` selects the row (R95). -/
def decodeFamily8 (x y n : Fin 16) : Except DecodeReject Instr :=
  match n.val with
  | 0x0 => .ok (.ldVxVy x y)
  | 0x1 => .ok (.orVxVy x y)
  | 0x2 => .ok (.andVxVy x y)
  | 0x3 => .ok (.xorVxVy x y)
  | 0x4 => .ok (.addVxVy x y)
  | 0x5 => .ok (.subVxVy x y)
  | 0x6 => .ok (.shrVx x y)
  | 0x7 => .ok (.subnVxVy x y)
  | 0xE => .ok (.shlVx x y)
  | _ => .error .family8

/-- Family E: `kk` selects the row (R95). -/
def decodeFamilyE (x : RegIx) (kk : Byte) : Except DecodeReject Instr :=
  if kk = 0x9E then .ok (.skpVx x)
  else if kk = 0xA1 then .ok (.sknpVx x)
  else .error .familyE

/-- Family F: `kk` selects the row (R95). -/
def decodeFamilyF (x : RegIx) (kk : Byte) : Except DecodeReject Instr :=
  if kk = 0x07 then .ok (.ldVxDT x)
  else if kk = 0x0A then .ok (.ldVxK x)
  else if kk = 0x15 then .ok (.ldDTVx x)
  else if kk = 0x18 then .ok (.ldSTVx x)
  else if kk = 0x1E then .ok (.addIVx x)
  else if kk = 0x29 then .ok (.ldFVx x)
  else if kk = 0x33 then .ok (.ldBVx x)
  else if kk = 0x55 then .ok (.ldMemVx x)
  else if kk = 0x65 then .ok (.ldVxMem x)
  else .error .familyF

/-- `Decode(op)` (R95): a function of the word alone; one arm per family, the last arm being family F, since
the field has four bits. -/
def decode (op : Word) : Except DecodeReject Instr :=
  match (opFam op).val with
  | 0x0 => decodeFamily0 op
  | 0x1 => .ok (.jp (opNnn op))
  | 0x2 => .ok (.call (opNnn op))
  | 0x3 => .ok (.seVxKk (opX op) (opKk op))
  | 0x4 => .ok (.sneVxKk (opX op) (opKk op))
  | 0x5 => if opN op = 0 then .ok (.seVxVy (opX op) (opY op)) else .error .family5
  | 0x6 => .ok (.ldVxKk (opX op) (opKk op))
  | 0x7 => .ok (.addVxKk (opX op) (opKk op))
  | 0x8 => decodeFamily8 (opX op) (opY op) (opN op)
  | 0x9 => if opN op = 0 then .ok (.sneVxVy (opX op) (opY op)) else .error .family9
  | 0xA => .ok (.ldI (opNnn op))
  | 0xB => .ok (.jpV0 (opNnn op))
  | 0xC => .ok (.rndVxKk (opX op) (opKk op))
  | 0xD => .ok (.drw (opX op) (opY op) (opN op).val)
  | 0xE => decodeFamilyE (opX op) (opKk op)
  | _ => decodeFamilyF (opX op) (opKk op)

/-- Decoding from bytes: the first two are the instruction, high byte first (R90); the rest is handed back. -/
def decodeBytes : List Byte → Except DecodeReject (Instr × List Byte)
  | hi :: lo :: rest =>
    match decode (wordOfBytes hi lo) with
    | .ok i => .ok (i, rest)
    | .error r => .error r
  | _ => .error .truncated

/-- The word `w` of an opcode-table row of `nbits` bits, as the bytes the hardware stores: bits above `nbits`
are 0, the high byte first. -/
def tableWord (nbits w : Nat) : Word := BitVec.ofNat 16 (w % 2 ^ nbits)

/-- The instruction the decoder reads from a table word. -/
def decodeTableWord (nbits w : Nat) : Option Instr :=
  match decodeBytes [hiByte (tableWord nbits w), loByte (tableWord nbits w)] with
  | .ok (i, _) => some i
  | .error _ => none

/-! ### Encoding: the six formats of R92 -/

/-- Formats A: family and address. -/
def formatA (fam : BitVec 4) (nnn : BitVec 12) : Word := fam ++ nnn

/-- Formats I and X: family, register, byte. -/
def formatI (fam : BitVec 4) (x : RegIx) (kk : Byte) : Word := formatA fam (BitVec.ofFin (w := 4) x ++ kk)

/-- Formats R and D: family, two registers, last digit. -/
def formatR (fam : BitVec 4) (x y : RegIx) (n : BitVec 4) : Word :=
  formatI fam x (BitVec.ofFin (w := 4) y ++ n)

/-- The word of an instruction (R95's table, column "pattern"). -/
def encode : Instr → Word
  | .cls => 0x00E0
  | .ret => 0x00EE
  | .jp nnn => formatA 0x1 nnn
  | .call nnn => formatA 0x2 nnn
  | .seVxKk x kk => formatI 0x3 x kk
  | .sneVxKk x kk => formatI 0x4 x kk
  | .seVxVy x y => formatR 0x5 x y 0x0
  | .ldVxKk x kk => formatI 0x6 x kk
  | .addVxKk x kk => formatI 0x7 x kk
  | .ldVxVy x y => formatR 0x8 x y 0x0
  | .orVxVy x y => formatR 0x8 x y 0x1
  | .andVxVy x y => formatR 0x8 x y 0x2
  | .xorVxVy x y => formatR 0x8 x y 0x3
  | .addVxVy x y => formatR 0x8 x y 0x4
  | .subVxVy x y => formatR 0x8 x y 0x5
  | .shrVx x y => formatR 0x8 x y 0x6
  | .subnVxVy x y => formatR 0x8 x y 0x7
  | .shlVx x y => formatR 0x8 x y 0xE
  | .sneVxVy x y => formatR 0x9 x y 0x0
  | .ldI nnn => formatA 0xA nnn
  | .jpV0 nnn => formatA 0xB nnn
  | .rndVxKk x kk => formatI 0xC x kk
  | .drw x y n => formatR 0xD x y (BitVec.ofNat 4 n)
  | .skpVx x => formatI 0xE x 0x9E
  | .sknpVx x => formatI 0xE x 0xA1
  | .ldVxDT x => formatI 0xF x 0x07
  | .ldVxK x => formatI 0xF x 0x0A
  | .ldDTVx x => formatI 0xF x 0x15
  | .ldSTVx x => formatI 0xF x 0x18
  | .addIVx x => formatI 0xF x 0x1E
  | .ldFVx x => formatI 0xF x 0x29
  | .ldBVx x => formatI 0xF x 0x33
  | .ldMemVx x => formatI 0xF x 0x55
  | .ldVxMem x => formatI 0xF x 0x65

/-- The two bytes of an instruction in memory order, high byte first (R90). -/
def encodeBytes (i : Instr) : List Byte := [hiByte (encode i), loByte (encode i)]

/-! ### The assembler's text (R99) -/

/-- A hexadecimal digit; the last arm is 15. -/
def hexDigit (d : Fin 16) : String :=
  match d.val with
  | 0 => "0" | 1 => "1" | 2 => "2" | 3 => "3" | 4 => "4" | 5 => "5" | 6 => "6" | 7 => "7"
  | 8 => "8" | 9 => "9" | 10 => "A" | 11 => "B" | 12 => "C" | 13 => "D" | 14 => "E" | _ => "F"

/-- `V0` .. `VF`. -/
def asmReg (x : RegIx) : String := "V" ++ hexDigit x

/-- An 8-bit literal. -/
def asmByte (kk : Byte) : String :=
  "0x" ++ hexDigit (kk.extractLsb' 4 4).toFin ++ hexDigit (kk.extractLsb' 0 4).toFin

/-- A 12-bit literal. -/
def asmAddr (nnn : BitVec 12) : String :=
  "0x" ++ hexDigit (nnn.extractLsb' 8 4).toFin ++ hexDigit (nnn.extractLsb' 4 4).toFin ++
    hexDigit (nnn.extractLsb' 0 4).toFin

/-- A shift: its second operand is written only where the field `y` is not 0 (R99). -/
def asmShift (mnemonic : String) (x y : RegIx) : String :=
  if y = 0 then mnemonic ++ " " ++ asmReg x else mnemonic ++ " " ++ asmReg x ++ ", " ++ asmReg y

/-- Mnemonic and operands, the destination first (R99). -/
def asm : Instr → String
  | .cls => "CLS"
  | .ret => "RET"
  | .jp nnn => "JP " ++ asmAddr nnn
  | .call nnn => "CALL " ++ asmAddr nnn
  | .seVxKk x kk => "SE " ++ asmReg x ++ ", " ++ asmByte kk
  | .sneVxKk x kk => "SNE " ++ asmReg x ++ ", " ++ asmByte kk
  | .seVxVy x y => "SE " ++ asmReg x ++ ", " ++ asmReg y
  | .ldVxKk x kk => "LD " ++ asmReg x ++ ", " ++ asmByte kk
  | .addVxKk x kk => "ADD " ++ asmReg x ++ ", " ++ asmByte kk
  | .ldVxVy x y => "LD " ++ asmReg x ++ ", " ++ asmReg y
  | .orVxVy x y => "OR " ++ asmReg x ++ ", " ++ asmReg y
  | .andVxVy x y => "AND " ++ asmReg x ++ ", " ++ asmReg y
  | .xorVxVy x y => "XOR " ++ asmReg x ++ ", " ++ asmReg y
  | .addVxVy x y => "ADD " ++ asmReg x ++ ", " ++ asmReg y
  | .subVxVy x y => "SUB " ++ asmReg x ++ ", " ++ asmReg y
  | .shrVx x y => asmShift "SHR" x y
  | .subnVxVy x y => "SUBN " ++ asmReg x ++ ", " ++ asmReg y
  | .shlVx x y => asmShift "SHL" x y
  | .sneVxVy x y => "SNE " ++ asmReg x ++ ", " ++ asmReg y
  | .ldI nnn => "LD I, " ++ asmAddr nnn
  | .jpV0 nnn => "JP V0, " ++ asmAddr nnn
  | .rndVxKk x kk => "RND " ++ asmReg x ++ ", " ++ asmByte kk
  | .drw x y n => "DRW " ++ asmReg x ++ ", " ++ asmReg y ++ ", " ++ toString n
  | .skpVx x => "SKP " ++ asmReg x
  | .sknpVx x => "SKNP " ++ asmReg x
  | .ldVxDT x => "LD " ++ asmReg x ++ ", DT"
  | .ldVxK x => "LD " ++ asmReg x ++ ", K"
  | .ldDTVx x => "LD DT, " ++ asmReg x
  | .ldSTVx x => "LD ST, " ++ asmReg x
  | .addIVx x => "ADD I, " ++ asmReg x
  | .ldFVx x => "LD F, " ++ asmReg x
  | .ldBVx x => "LD B, " ++ asmReg x
  | .ldMemVx x => "LD [I], " ++ asmReg x
  | .ldVxMem x => "LD " ++ asmReg x ++ ", [I]"

end Sys2Proof
end

