-- ==== Sys2Proof/Machine/State.lean ====
section
/-! DEFINITION. The machine's state as plain data (R20 to R35), the outcomes' reason types, and the state after
reset (R35, R260). -/

namespace Sys2Proof.Machine

/-- Why a step of the MODEL could stop with a fault. It has no constructor: nobody raises one. The four fatal
errors of the machine (R220) are next states (`FatalError`, `Mode.halted`), as R221 describes them. Safe and
exact: no behaviour is cut off. -/
inductive Fault
deriving DecidableEq, Repr

/-- Why a step of the MODEL could refuse an instruction. -/
inductive Refusal where
  /-- Raised by `exec` for an instruction that has no meaning yet, by its mnemonic. No arm of `exec` raises it:
  all 34 instructions have their meaning. Safe. -/
  | notModelled (mnemonic : String)
deriving DecidableEq, Repr

/-- `MODE` (R31): the state machine of the Executor. -/
inductive Mode where
  /-- "ready to execute next instruction". -/
  | ready
  /-- "awaiting key input". -/
  | awaitingKey
  /-- "Terminal state: an unrecoverable error". -/
  | halted
deriving DecidableEq, Repr

/-- The error record `ERR` (R33, R220) with the fields and widths of R220. -/
inductive FatalError where
  /-- Code 1: "the offending instruction word and program-counter value". -/
  | decodeError (word pc : Word)
  /-- Code 2: "current stack depth". -/
  | stackOverflow (depth : BitVec 5)
  /-- Code 3: "current stack depth". -/
  | stackUnderflow (depth : BitVec 5)
  /-- Code 4: "the offending address". -/
  | outOfRangeAccess (addr : BitVec 17)
deriving DecidableEq, Repr

/-- What the outside presents for one step: the level at the `key` port and the byte at the `rand` port during
the cycle (R5), and how many tick events occur at the boundary before it (R233). Not state of CORE (R34): the
model's own (log 1). -/
structure Input where
  /-- The key level: no key, or one code (R206). -/
  key : Option Key
  /-- The random byte (R152). -/
  rand : Byte
  /-- Ticks at the boundary before the cycle (R233). -/
  ticks : Nat
deriving DecidableEq, Repr

/-- The memory `M` (R30): the bytes that differ from the reset contents 0x00, by rising address. -/
abbrev Memory := List Host.Cell

/-- The display buffer `FB` (R29): 32 rows of 64 pixels, a pixel being set or not. -/
abbrev Display := Vector (Vector Bool 64) 32

/-- The state (R20 to R33) and, last, the model's own four fields for the outside (log 1, 8). -/
structure State where
  /-- `V[0]` .. `V[15]` (R20). -/
  v : Vector Byte 16
  /-- The address register `I` (R23). -/
  i : Word
  /-- The program counter: between steps the address of the next instruction (R24). -/
  pc : Word
  /-- The call stack's slots `S[0]` .. `S[15]` (R25). -/
  stack : Vector Word 16
  /-- The call stack's depth `SP`, 0..16 (R25). -/
  sp : Fin 17
  /-- The delay timer `DT` (R27). -/
  dt : Byte
  /-- The sound timer `ST` (R28). -/
  st : Byte
  /-- The display buffer (R29). -/
  fb : Display
  /-- The memory (R30). -/
  mem : Memory
  /-- `MODE` (R31). -/
  mode : Mode
  /-- `WAITX`, the destination of the pending key wait (R32). -/
  waitx : RegIx
  /-- `ERR`, the error record or none (R33). -/
  err : Option FatalError
  /-- MODEL'S OWN (log 1): what the outside presents for the coming step. -/
  input : Input
  /-- MODEL'S OWN (log 1): what it will present after that, as far as a state says so. -/
  script : List Input
  /-- MODEL'S OWN (log 2): how many presentations were drawn from the free values. -/
  drawn : Nat
  /-- MODEL'S OWN (log 8): a cycle has been invoked since reset, so `load` is over (R73). -/
  started : Bool
deriving DecidableEq, Repr

/-- The machine right after reset: the table of R35. The last four fields are DESIGN CHOICE (log 3). -/
def State.reset : State where
  v := Vector.replicate 16 0x00
  i := 0x0000
  pc := 0x0200
  stack := Vector.replicate 16 0x0000
  sp := 0
  dt := 0x00
  st := 0x00
  fb := Vector.replicate 32 (Vector.replicate 64 false)
  mem := []
  mode := .ready
  waitx := 0
  err := none
  input := { key := none, rand := 0x00, ticks := 0 }
  script := []
  drawn := 0
  started := false

end Sys2Proof.Machine
end

