-- ==== Sys2Proof/Machine/Ops.lean ====
section
/-! DEFINITION. The named operations over the state: registers and program counter, memory with its range
checks (R60 to R69), the call stack (R26), taking a fatal error (R221) and having no return from one (R227), the
tick (R232), the fetch (R64, R94), the key wait's second part (R202) and the outside's presentations. -/

namespace Sys2Proof.Machine

/-- What a meaning answers. -/
abbrev Result := Host.Outcome State Fault Refusal

/-! ### Numeric codes (R31, R220) -/

/-- The encoding of `MODE` (R31). -/
def Mode.code : Mode → BitVec 2
  | .ready => 0
  | .awaitingKey => 1
  | .halted => 2

/-- The code of a fatal error (R220). -/
def FatalError.code : FatalError → Nat
  | .decodeError _ _ => 1
  | .stackOverflow _ => 2
  | .stackUnderflow _ => 3
  | .outOfRangeAccess _ => 4

/-! ### Registers -/

/-- `V[k]` (R20). -/
def State.reg (s : State) (k : RegIx) : Byte := s.v[k]

/-- `V[k] <- b` (R20). -/
def State.setReg (s : State) (k : RegIx) (b : Byte) : State := { s with v := s.v.set k b }

/-- Replace the register file (R175). -/
def State.setV (s : State) (v : Vector Byte 16) : State := { s with v := v }

/-- `I <- w` (R23). -/
def State.setI (s : State) (w : Word) : State := { s with i := w }

/-- `pc <- w` (R24). -/
def State.setPc (s : State) (w : Word) : State := { s with pc := w }

/-- `DT <- b` (R27). -/
def State.setDt (s : State) (b : Byte) : State := { s with dt := b }

/-- `ST <- b` (R28). -/
def State.setSt (s : State) (b : Byte) : State := { s with st := b }

/-- Replace the display buffer (R29). -/
def State.setFb (s : State) (fb : Display) : State := { s with fb := fb }

/-- Replace the memory (R30). -/
def State.setMem (s : State) (m : Memory) : State := { s with mem := m }

/-- `MODE <- m` (R31). -/
def State.setMode (s : State) (m : Mode) : State := { s with mode := m }

/-- The post-fetch program counter `npc = pc0 + 2` (R94 step 3): a meaning starts at `pc0`, the address of its
own instruction, and moves the program counter itself, so that a fatal error has nothing to undo (R221; log 11). -/
def State.npc (s : State) : Word := s.pc + 2

/-- `pc <- npc`: the advance of the fetch, the end of every instruction that says nothing of `pc` (R24, R94). -/
def State.advance (s : State) : State := s.setPc s.npc

/-- `if c then pc <- npc + 2`, else `pc` stays `npc` (R123). -/
def State.skipIf (s : State) (c : Bool) : State := s.setPc (if c then s.npc + 2 else s.npc)

/-! ### Memory (R60 to R69) -/

/-- `M[a]` without a range check: a listed byte, else the reset contents 0x00 (R30). -/
def Memory.read : Memory → Nat → Byte
  | [], _ => 0x00
  | (b, x) :: rest, a => if b = a then x else Memory.read rest a

/-- `M[a] <- x` without a range check, keeping the canonical form: rising addresses, no byte 0x00 listed. -/
def Memory.write : Memory → Nat → Byte → Memory
  | [], a, x => if x = 0x00 then [] else [(a, x)]
  | (b, y) :: rest, a, x =>
    if a < b then
      if x = 0x00 then (b, y) :: rest else (a, x) :: (b, y) :: rest
    else if a = b then
      if x = 0x00 then rest else (a, x) :: rest
    else (b, y) :: Memory.write rest a x

/-- `k` bytes at rising addresses from `a` (R65). -/
def Memory.readMany (m : Memory) (a : Nat) : Nat → List Byte
  | 0 => []
  | k + 1 => m.read a :: Memory.readMany m (a + 1) k

/-- Bytes stored one by one at rising addresses from `a` (R63, R65). -/
def Memory.writeMany (m : Memory) (a : Nat) : List Byte → Memory
  | [] => m
  | x :: rest => Memory.writeMany (m.write a x) (a + 1) rest

/-- The canonical form from address `lo` up: strictly rising addresses below 4096, no byte 0x00. -/
def Memory.wfFrom : Nat → Memory → Bool
  | _, [] => true
  | lo, (a, x) :: rest => decide (lo ≤ a) && decide (a < Config.memSize) && decide (x ≠ 0x00) && Memory.wfFrom (a + 1) rest

/-- The memory is in its canonical form. -/
def Memory.wf (m : Memory) : Bool := Memory.wfFrom 0 m

/-- The record of an access to address `a` above 4095 (R220): 17 bits hold every effective address (R69). -/
def rangeError (a : Nat) : FatalError := .outOfRangeAccess (BitVec.ofNat 17 a)

/-- `CheckRange(lo, count)` (R68): no access, or a last address of at most 4095, passes; otherwise the lowest
address above 4095 is reported. -/
def checkRange (lo count : Nat) : Except FatalError Unit :=
  if count = 0 ∨ lo + count - 1 ≤ 4095 then .ok () else .error (rangeError (max lo Config.memSize))

/-- `MemRead(addr, 1)` (R62). -/
def memRead (m : Memory) (addr : Nat) : Except FatalError Byte :=
  if addr > 4095 then .error (rangeError addr) else .ok (m.read addr)

/-- `MemWrite(addr, 1, v)` (R63). -/
def memWrite (m : Memory) (addr : Nat) (x : Byte) : Except FatalError Memory :=
  if addr > 4095 then .error (rangeError addr) else .ok (m.write addr x)

/-- `MemRead(addr, 2)` (R64): the fetch's two bytes, big-endian. -/
def memReadWord (m : Memory) (addr : Nat) : Except FatalError Word :=
  if addr > 4095 then .error (rangeError addr)
  else if addr + 1 > 4095 then .error (rangeError 4096)
  else .ok (wordOfBytes (m.read addr) (m.read (addr + 1)))

/-! ### The call stack (R26) -/

/-- `Push(w)` (R26). -/
def push (s : State) (w : Word) : Except FatalError State :=
  if h : s.sp.val < 16 then
    .ok { s with stack := s.stack.set s.sp.val w h, sp := ⟨s.sp.val + 1, by omega⟩ }
  else .error (.stackOverflow (BitVec.ofNat 5 s.sp.val))

/-- `Pop()` (R26): the popped value and the state after; the vacated slot keeps its value. -/
def pop (s : State) : Except FatalError (Word × State) :=
  if h : s.sp.val = 0 then .error (.stackUnderflow (BitVec.ofNat 5 s.sp.val))
  else .ok (s.stack[s.sp.val - 1]'(by omega), { s with sp := ⟨s.sp.val - 1, by omega⟩ })

/-! ### Fatal errors (R221) -/

/-- `raise E(info)` (R221): nothing of the cycle stands, `ERR` is written and `MODE` becomes `Halted`. It is
given the state the cycle began in, since every check comes before the first write. There is no return (R227):
only reset leaves `Halted`. -/
def raise (e : FatalError) (s : State) : State := { s with err := some e, mode := .halted }

/-! ### The tick (R232) -/

/-- One count of one timer: "never decrements below 0" (R231). -/
def countDown (b : Byte) : Byte := if b = 0 then b else b - 1

/-- The `tick` event (R232). -/
def State.tick (s : State) : State := { s with dt := countDown s.dt, st := countDown s.st }

/-- A timer after `n` ticks. -/
def countDownN : Nat → Byte → Byte
  | 0, b => b
  | n + 1, b => countDownN n (countDown b)

/-- `n` tick events in a row, at one boundary (R233); `ticks_eq_iterate` says that it is `tick`, `n` times. -/
def State.ticks (n : Nat) (s : State) : State := { s with dt := countDownN n s.dt, st := countDownN n s.st }

/-! ### The outside (log 1, 2, 4) -/

/-- The boundary before a cycle: the Tick source's ticks are delivered (R233). -/
def State.deliverTicks (s : State) : State := s.ticks s.input.ticks

/-- After a cycle, the outside presents anew: the next entry of the script, or free values (log 2). The cycle just
invoked closes the window of `load` (R73). -/
def State.presentNext (s : State) : State :=
  match s.script with
  | p :: rest => { s with input := p, script := rest, started := true }
  | [] =>
    { s with
      input := { key := Config.freeKey s.drawn, rand := Config.freeRand s.drawn, ticks := Config.freeTicks s.drawn }
      drawn := s.drawn + 1
      started := true }

/-! ### The parts of a cycle that are no instruction's (R94) -/

/-- Step 2 of a cycle: fetch the word at `pc0` (R94). -/
def fetch (s : State) : Except FatalError Word := memReadWord s.mem s.pc.toNat

/-- Part (b) of the key wait (R202): one poll. -/
def awaitCycle (s : State) : State :=
  match s.input.key with
  | none => s
  | some k => (s.setReg s.waitx (BitVec.ofNat 8 k.val)).advance.setMode .ready

/-- Part (a) of the key wait (R202): `pc` is put back to `pc0`, where it stands. -/
def State.enterWait (s : State) (x : RegIx) : State := { s with waitx := x, mode := .awaitingKey }

/-- Put an instruction word where the next fetch finds it (log 5). -/
def State.placeWord (s : State) (w : Word) : State :=
  { s with
    mem := (s.mem.write s.pc.toNat (hiByte w)).write (s.pc.toNat + 1) (loByte w)
    mode := .ready }

end Sys2Proof.Machine
end

