-- ==== Sys2Proof/Machine/Operands.lean ====
section
/-! DEFINITION. The operand forms (R91 to R93, the header of 42_address_memory.md): register and immediate
operands are read with `State.reg` and taken as they stand; here are the forms that compute something. -/

namespace Sys2Proof.Machine

/-- `zext_16(nnn)` (R93). -/
def addrOperand (nnn : BitVec 12) : Word := nnn.setWidth 16

/-- `zext_16(b)` (R127, R171). -/
def zext16 (b : Byte) : Word := b.setWidth 16

/-- The effective address `I + k`, an unbounded natural number (R69). -/
def State.effAddr (s : State) (k : Nat) : Nat := s.i.toNat + k

/-- The address of the font digit that the low four bits of `b` name (R172). -/
def fontAddr (b : Byte) : Word := BitVec.ofNat 16 (Config.fontStride * (b.extractLsb' 0 4).toNat)

/-- The three decimal digits of a byte, hundreds first (R173). -/
def bcdDigits (b : Byte) : List Byte :=
  [BitVec.ofNat 8 (b.toNat / 100), BitVec.ofNat 8 (b.toNat / 10 % 10), BitVec.ofNat 8 (b.toNat % 10)]

/-- `key == Some(k) and zext_8(k) == b` (R200). -/
def keyIs (key : Option Key) (b : Byte) : Bool :=
  match key with
  | none => false
  | some k => BitVec.ofNat 8 k.val == b

/-- The registers `V[0]` .. `V[x]`, ascending (R174). -/
def State.regsTo (s : State) (x : RegIx) : List Byte := s.v.toList.take (x.val + 1)

/-- `V[k] <- bytes` for ascending `k` from `k0` (R175). -/
def loadRegs (v : Vector Byte 16) (k0 : Nat) : List Byte → Vector Byte 16
  | [] => v
  | b :: rest => loadRegs (v.setIfInBounds k0 b) (k0 + 1) rest

/-- `I + x + 1`, the address register after a bulk transfer (R174, R175). -/
def State.iAfterBulk (s : State) (x : RegIx) : Word := BitVec.ofNat 16 (s.i.toNat + x.val + 1)

end Sys2Proof.Machine
end

