-- ==== Sys2Proof/Machine/AddressMemory.lean ====
section
/-! DEFINITION. The address-register and memory instructions (R170 to R175). -/

namespace Sys2Proof.Machine

/-- `LD I, nnn` (R170). -/
def execLdI (nnn : BitVec 12) (s : State) : Result := .next (s.setI (addrOperand nnn)).advance

/-- `ADD I, Vx` (R171): modulo 65536, no flag, no range check. -/
def execAddIVx (x : RegIx) (s : State) : Result := .next (s.setI (s.i + zext16 (s.reg x))).advance

/-- `LD F, Vx` (R172). -/
def execLdFVx (x : RegIx) (s : State) : Result := .next (s.setI (fontAddr (s.reg x))).advance

/-- `LD B, Vx` (R173). -/
def execLdBVx (x : RegIx) (s : State) : Result :=
  match checkRange (s.effAddr 0) 3 with
  | .ok _ => .next (s.setMem (s.mem.writeMany (s.effAddr 0) (bcdDigits (s.reg x)))).advance
  | .error e => .next (raise e s)

/-- `LD [I], Vx` (R174). -/
def execLdMemVx (x : RegIx) (s : State) : Result :=
  match checkRange (s.effAddr 0) (x.val + 1) with
  | .ok _ =>
    .next ((s.setMem (s.mem.writeMany (s.effAddr 0) (s.regsTo x))).setI (s.iAfterBulk x)).advance
  | .error e => .next (raise e s)

/-- `LD Vx, [I]` (R175). -/
def execLdVxMem (x : RegIx) (s : State) : Result :=
  match checkRange (s.effAddr 0) (x.val + 1) with
  | .ok _ =>
    .next ((s.setV (loadRegs s.v 0 (s.mem.readMany (s.effAddr 0) (x.val + 1)))).setI (s.iAfterBulk x)).advance
  | .error e => .next (raise e s)

end Sys2Proof.Machine
end

