-- ==== Sys2Proof/Machine/Flags.lean ====
section
/-! DEFINITION. Every flag computation (R21, R140): a result and the flag that goes with it, computed from the
operands before anything wraps. -/

namespace Sys2Proof.Machine

/-- `bool(c)` as a byte: a flag is 0x00 or 0x01 (R21). -/
def flagByte (c : Bool) : Byte := if c then 0x01 else 0x00

/-- Widened sum; the flag is the carry (R147). -/
def addFlag (a b : Byte) : Byte × Bool :=
  let sum := a.toNat + b.toNat
  (BitVec.ofNat 8 sum, decide (sum > 255))

/-- Exact difference; the flag is "no borrow" (R148, R150). -/
def subFlag (a b : Byte) : Byte × Bool :=
  let diff : Int := (a.toNat : Int) - (b.toNat : Int)
  (BitVec.ofInt 8 diff, decide (a.toNat ≥ b.toNat))

/-- Right by one; the flag is bit 0 before the shift (R149). -/
def shrFlag (a : Byte) : Byte × Bool := (a >>> 1, a.getLsbD 0)

/-- Left by one; the flag is bit 7 before the shift (R151). -/
def shlFlag (a : Byte) : Byte × Bool := (a <<< 1, a.getLsbD 7)

/-- The result goes to `V[x]`, then the flag to `VF`, last (R21): with `x = 15` the flag remains. -/
def State.setRegFlag (s : State) (x : RegIx) (r : Byte × Bool) : State :=
  (s.setReg x r.1).setReg 15 (flagByte r.2)

end Sys2Proof.Machine
end

