-- ==== Sys2Proof/Machine/Alu.lean ====
section
/-! DEFINITION. The register load, arithmetic, logic, shift and random instructions (R140 to R152). -/

namespace Sys2Proof.Machine

/-- `LD Vx, kk` (R141). -/
def execLdVxKk (x : RegIx) (kk : Byte) (s : State) : Result := .next (s.setReg x kk).advance

/-- `ADD Vx, kk` (R142): wraps, defines no flag. -/
def execAddVxKk (x : RegIx) (kk : Byte) (s : State) : Result := .next (s.setReg x (s.reg x + kk)).advance

/-- `LD Vx, Vy` (R143). -/
def execLdVxVy (x y : RegIx) (s : State) : Result := .next (s.setReg x (s.reg y)).advance

/-- `OR Vx, Vy` (R144). -/
def execOrVxVy (x y : RegIx) (s : State) : Result := .next (s.setReg x (s.reg x ||| s.reg y)).advance

/-- `AND Vx, Vy` (R145). -/
def execAndVxVy (x y : RegIx) (s : State) : Result := .next (s.setReg x (s.reg x &&& s.reg y)).advance

/-- `XOR Vx, Vy` (R146). -/
def execXorVxVy (x y : RegIx) (s : State) : Result := .next (s.setReg x (s.reg x ^^^ s.reg y)).advance

/-- `ADD Vx, Vy` (R147). -/
def execAddVxVy (x y : RegIx) (s : State) : Result :=
  .next (s.setRegFlag x (addFlag (s.reg x) (s.reg y))).advance

/-- `SUB Vx, Vy` (R148): minuend `V[x]`. -/
def execSubVxVy (x y : RegIx) (s : State) : Result :=
  .next (s.setRegFlag x (subFlag (s.reg x) (s.reg y))).advance

/-- `SHR Vx` (R149): the source is `V[x]`, the field `y` has no effect. -/
def execShrVx (x _y : RegIx) (s : State) : Result := .next (s.setRegFlag x (shrFlag (s.reg x))).advance

/-- `SUBN Vx, Vy` (R150): minuend `V[y]`. -/
def execSubnVxVy (x y : RegIx) (s : State) : Result :=
  .next (s.setRegFlag x (subFlag (s.reg y) (s.reg x))).advance

/-- `SHL Vx` (R151): the source is `V[x]`, the field `y` has no effect. -/
def execShlVx (x _y : RegIx) (s : State) : Result := .next (s.setRegFlag x (shlFlag (s.reg x))).advance

/-- `RND Vx, kk` (R152): the byte presented at the `rand` port this cycle, under the mask. -/
def execRndVxKk (x : RegIx) (kk : Byte) (s : State) : Result :=
  .next (s.setReg x (s.input.rand &&& kk)).advance

end Sys2Proof.Machine
end

