-- ==== Sys2Proof/Machine/Control.lean ====
section
/-! DEFINITION. The control-flow instructions (R120 to R127). -/

namespace Sys2Proof.Machine

/-- `RET` (R120). -/
def execRet (s : State) : Result :=
  match pop s with
  | .ok (t, s') => .next (s'.setPc t)
  | .error e => .next (raise e s)

/-- `JP nnn` (R121). -/
def execJp (nnn : BitVec 12) (s : State) : Result := .next (s.setPc (addrOperand nnn))

/-- `CALL nnn` (R122). -/
def execCall (nnn : BitVec 12) (s : State) : Result :=
  match push s s.npc with
  | .ok s' => .next (s'.setPc (addrOperand nnn))
  | .error e => .next (raise e s)

/-- `SE Vx, kk` (R123). -/
def execSeVxKk (x : RegIx) (kk : Byte) (s : State) : Result := .next (s.skipIf (s.reg x == kk))

/-- `SNE Vx, kk` (R124). -/
def execSneVxKk (x : RegIx) (kk : Byte) (s : State) : Result := .next (s.skipIf (s.reg x != kk))

/-- `SE Vx, Vy` (R125). -/
def execSeVxVy (x y : RegIx) (s : State) : Result := .next (s.skipIf (s.reg x == s.reg y))

/-- `SNE Vx, Vy` (R126). -/
def execSneVxVy (x y : RegIx) (s : State) : Result := .next (s.skipIf (s.reg x != s.reg y))

/-- `JP V0, nnn` (R127). -/
def execJpV0 (nnn : BitVec 12) (s : State) : Result :=
  .next (s.setPc (addrOperand nnn + zext16 (s.reg 0)))

end Sys2Proof.Machine
end

