-- ==== Sys2Proof/Machine/KeypadTimers.lean ====
section
/-! DEFINITION. The keypad and timer instructions (R200 to R205). -/

namespace Sys2Proof.Machine

/-- `SKP Vx` (R200): all 8 bits of `V[x]` are compared. -/
def execSkpVx (x : RegIx) (s : State) : Result := .next (s.skipIf (keyIs s.input.key (s.reg x)))

/-- `SKNP Vx` (R201). -/
def execSknpVx (x : RegIx) (s : State) : Result := .next (s.skipIf (!keyIs s.input.key (s.reg x)))

/-- `LD Vx, DT` (R203). -/
def execLdVxDT (x : RegIx) (s : State) : Result := .next (s.setReg x s.dt).advance

/-- `LD Vx, K`, part (a) (R202): the key is not looked at in this cycle; part (b) is `awaitCycle`. -/
def execLdVxK (x : RegIx) (s : State) : Result := .next (s.enterWait x)

/-- `LD DT, Vx` (R204). -/
def execLdDTVx (x : RegIx) (s : State) : Result := .next (s.setDt (s.reg x)).advance

/-- `LD ST, Vx` (R205). -/
def execLdSTVx (x : RegIx) (s : State) : Result := .next (s.setSt (s.reg x)).advance

end Sys2Proof.Machine
end

