-- ==== Sys2Proof/Machine/Video.lean ====
section
/-! DEFINITION. The display buffer's operations, the XOR compositor (R190, R191) and the display instructions
(R192, R193). -/

namespace Sys2Proof.Machine

/-- `FB[r][c]` (R29). -/
def Display.pixel (fb : Display) (r : Fin 32) (c : Fin 64) : Bool := fb[r][c]

/-- `FB[r][c] <- FB[r][c] XOR 1`. -/
def Display.toggle (fb : Display) (r : Fin 32) (c : Fin 64) : Display :=
  fb.set r (fb[r].set c (!fb[r][c]))

/-- Every pixel 0 (R192). -/
def Display.clear : Display := Vector.replicate 32 (Vector.replicate 64 false)

/-- `py = (y0 + r) mod 32` (R191). -/
def wrapRow (r : Nat) : Fin 32 := ⟨r % 32, by omega⟩

/-- `px = (x0 + c) mod 64` (R191). -/
def wrapCol (c : Nat) : Fin 64 := ⟨c % 64, by omega⟩

/-- The display buffer and the collision found so far. -/
abbrev Drawing := Display × Bool

/-- One set bit of the sprite: the pixel is toggled, a collision noted if it was set (R191). -/
def plot (d : Drawing) (r : Fin 32) (c : Fin 64) : Drawing := (d.1.toggle r c, d.2 || d.1.pixel r c)

/-- One column of a sprite row: bit `7 - c` of the byte (R191). -/
def drawBit (x0 : Nat) (py : Fin 32) (row : Byte) (d : Drawing) (c : Nat) : Drawing :=
  if row.getLsbD (7 - c) then plot d py (wrapCol (x0 + c)) else d

/-- One sprite row, columns ascending (R191). -/
def drawRow (x0 : Nat) (py : Fin 32) (row : Byte) (d : Drawing) : Drawing :=
  (List.range 8).foldl (drawBit x0 py row) d

/-- The rows in ascending order, the first at display row `y` (R191). -/
def drawRows (x0 : Nat) : Nat → List Byte → Drawing → Drawing
  | _, [], d => d
  | y, row :: rest, d => drawRows x0 (y + 1) rest (drawRow x0 (wrapRow y) row d)

/-- `DrawSprite(x0, y0, rows)` (R191): the buffer afterwards and the collision. -/
def drawSprite (x0 y0 : Nat) (rows : List Byte) (fb : Display) : Drawing := drawRows x0 y0 rows (fb, false)

/-- `CLS` (R192). -/
def execCls (s : State) : Result := .next (s.setFb Display.clear).advance

/-- `DRW Vx, Vy, n` (R193): coordinates are read before the flag is written. -/
def execDrw (x y : RegIx) (n : Nat) (s : State) : Result :=
  match checkRange (s.effAddr 0) n with
  | .ok _ =>
    let d := drawSprite (s.reg x).toNat (s.reg y).toNat (s.mem.readMany (s.effAddr 0) n) s.fb
    .next ((s.setFb d.1).setReg 15 (flagByte d.2)).advance
  | .error e => .next (raise e s)

end Sys2Proof.Machine
end

