-- ==== Sys2Proof/Machine/Cycle.lean ====
section
/-! DEFINITION. One cycle (R94) and one step: the boundary's ticks, the cycle, the outside's next presentation. -/

namespace Sys2Proof.Machine

/-- Steps 2 to 5 of a cycle in `Ready` (R94), with the priority of R223: fetch range, decode, the instruction's
own check. -/
def readyCycle (s : State) : Result :=
  match fetch s with
  | .error e => .next (raise e s)
  | .ok op =>
    match decode op with
    | .error _ => .next (raise (.decodeError op s.pc) s)
    | .ok i => exec i s

/-- `cycle(key, rand)` with the inputs presented in the state (R94). -/
def cycle (s : State) : Result :=
  match s.mode with
  | .halted => .next s
  | .awaitingKey => .next (awaitCycle s)
  | .ready => readyCycle s

/-- What follows a cycle that answers a next state: the outside presents anew. -/
def afterCycle : Result → Result
  | .next t => .next t.presentNext
  | .fault r => .fault r
  | .refused r => .refused r

/-- One boundary and one cycle (R233; log 4). -/
def boundaryAndCycle (s : State) : Result := afterCycle (cycle s.deliverTicks)

end Sys2Proof.Machine
end

