-- ==== Sys2Proof/Machine/Step.lean ====
section
/-! DEFINITION. The step function, and where an instruction is placed to be the next one fetched. -/

namespace Sys2Proof.Machine

/-- One step: the ticks of this boundary, then one `cycle` invocation. It answers a next state always. -/
def step (s : State) : Host.Outcome State Fault Refusal := boundaryAndCycle s

/-- `s` with an instruction of the opcode table stored where `step` fetches next (log 5): its two bytes at `pc`
and `pc + 1`, high byte first, and the machine `Ready`. -/
def State.withFetchWord (s : State) (nbits w : Nat) : State := s.placeWord (tableWord nbits w)

end Sys2Proof.Machine
end

