-- ==== Sys2Proof/Machine/HostPort.lean ====
section
/-! DEFINITION. The Host's events and ports beside `cycle` (R5): `reset` (R260), `load` (R73), the boot steps
(R262), and the outputs `display`, `sound_active`, `status` (R28, R74, R225). -/

namespace Sys2Proof.Machine

/-- The `reset` event (R260): CORE is as R35 says; what the outside presents is not CORE's and stays (log 9). -/
def State.hostReset (s : State) : State :=
  { State.reset with input := s.input, script := s.script, drawn := s.drawn }

/-- What the Host is told of a `load` (R73). -/
inductive LoadResult where
  /-- Accepted. -/
  | loaded (s : State)
  /-- It does not fit: refused whole with `OutOfRangeAccess(addr)`; no byte is written and `MODE` is unchanged. -/
  | outOfRange (addr : Nat)
  /-- A cycle has been invoked since reset: the host breaks its duty, and there is no move (log 8). -/
  | notPermitted
deriving DecidableEq, Repr

/-- `load(bytes, at)` (R73). -/
def State.load (s : State) (bytes : List Byte) (base : Nat) : LoadResult :=
  if s.started then .notPermitted
  else if base + bytes.length > Config.memSize then .outOfRange (max base Config.memSize)
  else .loaded (s.setMem (s.mem.writeMany base bytes))

/-- Continue after an accepted `load`. -/
def LoadResult.andThen (r : LoadResult) (f : State → LoadResult) : LoadResult :=
  match r with
  | .loaded s => f s
  | .outOfRange a => .outOfRange a
  | .notPermitted => .notPermitted

/-- The boot steps of R262: reset, load the font, load the program. -/
def State.boot (s : State) (program : List Byte) : LoadResult :=
  (s.hostReset.load Config.fontTable Config.fontBase).andThen fun t => t.load program Config.progBase

/-- The `display` port: a copy of the buffer (R74). -/
def State.display (s : State) : Display := s.fb

/-- The `sound_active` port: `ST != 0` (R28). -/
def State.soundActive (s : State) : Bool := s.st != 0

/-- What the `status` port shows (R5, R225). -/
inductive Status where
  | ready
  | awaitingKey
  /-- With the error record; it is there whenever the invariant `State.Inv` holds (log 12). -/
  | halted (err : Option FatalError)
deriving DecidableEq, Repr

/-- The `status` port. -/
def State.status (s : State) : Status :=
  match s.mode with
  | .ready => .ready
  | .awaitingKey => .awaitingKey
  | .halted => .halted s.err

end Sys2Proof.Machine
end

