-- ==== Sys2Proof/Safety.lean ====
section
/-! DEFINITION. The terms claims are stated in: frames, who writes what (R36), safe and parked states, and the
invariant of the machine. -/

namespace Sys2Proof.Machine

/-! ### Frames -/

/-- A piece of CORE's state, for saying what changes. -/
inductive Piece where
  /-- `V[k]`. -/
  | reg (k : RegIx)
  /-- `I`. -/
  | i
  | pc
  /-- `S` and `SP`. -/
  | stack
  /-- `DT`. -/
  | dt
  /-- `ST`. -/
  | st
  /-- `FB`. -/
  | pixels
  /-- `M`. -/
  | memory
  /-- `MODE` and `ERR`. -/
  | status
  /-- `WAITX`. -/
  | waitx
deriving DecidableEq, Repr

/-- The outside's side of the ports, and the load window, are as before. -/
def SameOutside (s t : State) : Prop :=
  t.input = s.input ∧ t.script = s.script ∧ t.drawn = s.drawn ∧ t.started = s.started

/-- From `s` to `t` nothing of CORE but the pieces `ps` may have changed: every register, the address register, the
program counter, the stack, each timer, every pixel, every byte of memory, the status and the wait register that
`ps` does not list is as before. -/
def SameCoreBut (ps : List Piece) (s t : State) : Prop :=
  (∀ k, .reg k ∉ ps → t.reg k = s.reg k) ∧
  (.i ∉ ps → t.i = s.i) ∧
  (.pc ∉ ps → t.pc = s.pc) ∧
  (.stack ∉ ps → t.sp = s.sp ∧ ∀ k : Fin 16, t.stack[k] = s.stack[k]) ∧
  (.dt ∉ ps → t.dt = s.dt) ∧
  (.st ∉ ps → t.st = s.st) ∧
  (.pixels ∉ ps → ∀ r c, t.fb.pixel r c = s.fb.pixel r c) ∧
  (.memory ∉ ps → ∀ a, t.mem.read a = s.mem.read a) ∧
  (.status ∉ ps → t.mode = s.mode ∧ t.err = s.err) ∧
  (.waitx ∉ ps → t.waitx = s.waitx)

/-- The frame of an instruction or a cycle: CORE is the same but for `ps`, and so is the outside. -/
def SameBut (ps : List Piece) (s t : State) : Prop := SameCoreBut ps s t ∧ SameOutside s t

/-- The registers `V[0]` .. `V[x]`. -/
def piecesTo (x : RegIx) : List Piece := ((List.finRange 16).filter (· ≤ x)).map Piece.reg

/-- R36, column "written by": the pieces an instruction may write, a fatal error's among them. -/
def writtenPieces : Instr → List Piece
  | .cls => [.pc, .pixels]
  | .ret | .call _ => [.pc, .stack, .status]
  | .jp _ | .jpV0 _ => [.pc]
  | .seVxKk _ _ | .sneVxKk _ _ | .seVxVy _ _ | .sneVxVy _ _ | .skpVx _ | .sknpVx _ => [.pc]
  | .ldVxKk x _ | .addVxKk x _ | .rndVxKk x _ | .ldVxDT x => [.pc, .reg x]
  | .ldVxVy x _ | .orVxVy x _ | .andVxVy x _ | .xorVxVy x _ => [.pc, .reg x]
  | .addVxVy x _ | .subVxVy x _ | .shrVx x _ | .subnVxVy x _ | .shlVx x _ => [.pc, .reg x, .reg 15]
  | .ldI _ | .addIVx _ | .ldFVx _ => [.pc, .i]
  | .drw _ _ _ => [.pc, .pixels, .reg 15, .status]
  | .ldVxK _ => [.status, .waitx]
  | .ldDTVx _ => [.pc, .dt]
  | .ldSTVx _ => [.pc, .st]
  | .ldBVx _ => [.pc, .memory, .status]
  | .ldMemVx _ => [.pc, .memory, .i, .status]
  | .ldVxMem x => [.pc, .i, .status] ++ piecesTo x

/-! ### Sprites (R191) -/

/-- The pixel in row `r`, column `c` is hit by a set bit of the `n`-row sprite at `I`, drawn with its left upper
corner at column `x0` and row `y0`: bit `7 - dc` of row `dr` falls on it, wrapping on both axes. -/
def SpriteHits (s : State) (x0 y0 n : Nat) (r : Fin 32) (c : Fin 64) : Prop :=
  ∃ dr dc : Nat, dr < n ∧ dc < 8 ∧ (y0 + dr) % 32 = r.val ∧ (x0 + dc) % 64 = c.val ∧
    (s.mem.read (s.effAddr dr)).getLsbD (7 - dc) = true

/-! ### Safe states and the end of a run -/

/-- A safe state: no fatal error has halted the machine (R225: `Halted` is never a good final state). -/
def State.Safe (s : State) : Prop := s.mode ≠ .halted

/-- The parked state of R268: `Ready`, and the word at `pc` is `JP pc`. -/
def State.Parked (s : State) : Prop :=
  s.mode = .ready ∧ fetch s = .ok (encode (.jp (s.pc.setWidth 12)))

/-! ### The invariant -/

/-- The word at `pc` can be fetched and is the instruction `i`. -/
def State.Fetches (s : State) (i : Instr) : Prop := ∃ w, fetch s = .ok w ∧ decode w = .ok i

/-- The error record tells the truth of the state it halted in (R220, R224). -/
def RecordTrue (s : State) : FatalError → Prop
  | .decodeError w p => p = s.pc ∧ fetch s = .ok w ∧ legalWord w = false
  | .stackOverflow d => d = 16 ∧ s.sp.val = 16 ∧ ∃ nnn, s.Fetches (.call nnn)
  | .stackUnderflow d => d = 0 ∧ s.sp.val = 0 ∧ s.Fetches .ret
  | .outOfRangeAccess a => 4096 ≤ a.toNat

/-- The invariant of the machine: what holds of every state a run from reset reaches. -/
structure State.Inv (s : State) : Prop where
  /-- The memory is in its canonical form (R30). -/
  memory : s.mem.wf = true
  /-- Every live stack entry is a return address in 2..4096 (R120). -/
  stackEntries : ∀ k : Fin 16, k.val < s.sp.val → 2 ≤ (s.stack[k]).toNat ∧ (s.stack[k]).toNat ≤ 4096
  /-- The largest value any rule puts in `pc` is 0x10FE (R24). -/
  pcBound : s.pc.toNat ≤ 0x10FE
  /-- There is an error record exactly while `Halted` (R33). -/
  recordIffHalted : s.mode = .halted ↔ s.err.isSome = true
  /-- The record is true (R220, R224). -/
  record : ∀ e, s.err = some e → RecordTrue s e
  /-- While waiting, `pc` is at the `LD Vx, K` word whose `x` is `WAITX` (R32, R202). -/
  waiting : s.mode = .awaitingKey → s.Fetches (.ldVxK s.waitx)

end Sys2Proof.Machine
end

