-- ==== Sys2Proof/Certificates/Slice0/Obligations.lean ====
section
/-! DEFINITION. The statements about the machine, each a proposition for the provers. Where a statement gives an
instruction's result it also gives the instruction's word, its frame (`SameBut`: whatever is not listed is as
before) and every exception it can take. -/

open Sys2Proof Sys2Proof.Machine

/-! ### Encoding -/

/-- R91, R92, R95: decoding an encoded instruction gives it back, with every operand at every value its field
admits. -/
def Obligations.DecodeEncodeRoundTrip : Prop :=
  ∀ i : Instr, i.wellFormed = true → decode (encode i) = .ok i

/-- R95, R98: each word has at most one meaning, and no bit of a legal word is dropped: what a word decodes to is
well-formed and encodes to that word. -/
def Obligations.EncodeDecodeRoundTrip : Prop :=
  ∀ (w : Word) (i : Instr), decode w = .ok i → encode i = w ∧ i.wellFormed = true

/-- R96, R97: a word decodes exactly where the table of illegal words does not name it. -/
def Obligations.DecodeAcceptsExactlyLegalWords : Prop :=
  ∀ w : Word, (∃ i, decode w = .ok i) ↔ legalWord w = true

/-- R90: an instruction is two bytes, high byte first; whatever follows is handed back unread. -/
def Obligations.DecodeBytesReadsTwoBytes : Prop :=
  ∀ (i : Instr) (rest : List Byte), i.wellFormed = true → decodeBytes (encodeBytes i ++ rest) = .ok (i, rest)

/-- R91, R95: at least one word of each of the sixteen families (a family is the top four bits of the word), written
out from the opcode map, decodes to the instruction it stands for. -/
def Obligations.WrittenOutWordsDecode : Prop :=
  decode 0x00E0 = .ok .cls ∧ decode 0x00EE = .ok .ret ∧ decode 0x1234 = .ok (.jp 0x234) ∧
  decode 0x2300 = .ok (.call 0x300) ∧ decode 0x3A05 = .ok (.seVxKk 0xA 0x05) ∧
  decode 0x4A05 = .ok (.sneVxKk 0xA 0x05) ∧ decode 0x5120 = .ok (.seVxVy 1 2) ∧
  decode 0x6A2C = .ok (.ldVxKk 0xA 0x2C) ∧ decode 0x7005 = .ok (.addVxKk 0 0x05) ∧
  decode 0x8124 = .ok (.addVxVy 1 2) ∧ decode 0x812E = .ok (.shlVx 1 2) ∧
  decode 0x9120 = .ok (.sneVxVy 1 2) ∧ decode 0xA22A = .ok (.ldI 0x22A) ∧
  decode 0xB300 = .ok (.jpV0 0x300) ∧ decode 0xC30F = .ok (.rndVxKk 3 0x0F) ∧
  decode 0xD125 = .ok (.drw 1 2 5) ∧ decode 0xE39E = .ok (.skpVx 3) ∧ decode 0xF40A = .ok (.ldVxK 4) ∧
  decode 0xF255 = .ok (.ldMemVx 2) ∧ decode 0xF165 = .ok (.ldVxMem 1)

/-! ### The cycle and the step -/

/-- R94: when the two bytes at the program counter decode to `i` and the machine is `Ready`, a step is `exec i` in
that state after the boundary's ticks, and then the outside presents anew (log 1, 4). -/
def Obligations.StepRunsDecodedInstruction : Prop :=
  ∀ (s : State) (i : Instr), s.mode = .ready → s.pc.toNat + 1 ≤ 4095 →
    decode (wordOfBytes (s.mem.read s.pc.toNat) (s.mem.read (s.pc.toNat + 1))) = .ok i → i.wellFormed = true →
    step s = match exec i s.deliverTicks with
      | .next t => .next t.presentNext
      | .fault r => .fault r
      | .refused r => .refused r

/-- R232, R233 and log 1, 2, 4: what a step adds around the cycle. The boundary's ticks count both timers down and
touch nothing else; afterwards the outside presents the next entry of the script, or free values, and nothing of
CORE changes. -/
def Obligations.StepAddsTicksAndPresentation : Prop :=
  ∀ s : State,
    (s.deliverTicks.dt.toNat = s.dt.toNat - s.input.ticks ∧ s.deliverTicks.st.toNat = s.st.toNat - s.input.ticks ∧
      SameBut [.dt, .st] s s.deliverTicks) ∧
    (SameCoreBut [] s s.presentNext ∧ s.presentNext.started = true) ∧
    (∀ p rest, s.script = p :: rest →
      s.presentNext.input = p ∧ s.presentNext.script = rest ∧ s.presentNext.drawn = s.drawn) ∧
    (s.script = [] →
      s.presentNext.input.key = Config.freeKey s.drawn ∧ s.presentNext.input.rand = Config.freeRand s.drawn ∧
      s.presentNext.input.ticks = Config.freeTicks s.drawn ∧ s.presentNext.script = [] ∧
      s.presentNext.drawn = s.drawn + 1)

/-- R64, R65: the fetch is big-endian, and is out of range above 4095 and at 4095. -/
def Obligations.FetchIsBigEndianAndChecked : Prop :=
  ∀ (m : Memory) (addr : Nat),
    (addr > 4095 → memReadWord m addr = .error (.outOfRangeAccess (BitVec.ofNat 17 addr))) ∧
    (addr = 4095 → memReadWord m addr = .error (.outOfRangeAccess 4096)) ∧
    (addr < 4095 → ∃ w, memReadWord m addr = .ok w ∧
      w.toNat = (m.read addr).toNat * 256 + (m.read (addr + 1)).toNat)

/-- R94, R221, R223: a `Ready` cycle whose fetch is out of range halts with the lowest address above 4095, and
changes nothing else; the fetch is checked before anything is decoded (the address reported: the spec's decision
D26). -/
def Obligations.FetchOutOfRangeHalts : Prop :=
  ∀ s : State, s.mode = .ready → s.pc.toNat > 4094 →
    ∃ t, cycle s = .next t ∧ t.mode = .halted ∧
      t.err = some (.outOfRangeAccess (BitVec.ofNat 17 (max s.pc.toNat 4096))) ∧ SameBut [.status] s t

/-- R96, R220, R221: executing a word of the table of illegal words (the spec's decisions D3, D4) is the fatal error
`DecodeError(op, pc0)`, and nothing else changes. -/
def Obligations.IllegalWordHalts : Prop :=
  ∀ s : State, s.mode = .ready → s.pc.toNat ≤ 4094 →
    legalWord (wordOfBytes (s.mem.read s.pc.toNat) (s.mem.read (s.pc.toNat + 1))) = false →
    ∃ t, cycle s = .next t ∧ t.mode = .halted ∧
      t.err = some (.decodeError (wordOfBytes (s.mem.read s.pc.toNat) (s.mem.read (s.pc.toNat + 1))) s.pc) ∧
      SameBut [.status] s t

/-- Every step of every state answers a next state; the model never faults and never refuses. That a fatal error is
a next state whose `MODE` is `Halted`, and no stop of the model, is the model's reading of R221 (log 14, DEDUCED); that
a cycle while `Halted` changes nothing is R226, the spec's decision D21. -/
def Obligations.StepAlwaysAnswersNext : Prop := ∀ s : State, ∃ t, step s = .next t

/-- R31: the transitions of the run state in one step. `Ready` may stay or go to either other state; `AwaitingKey`
goes to `Ready` exactly when a key is sampled and else stays; `Halted` stays. -/
def Obligations.RunStateTransitions : Prop :=
  ∀ s t : State, step s = .next t →
    (s.mode = .halted → t.mode = .halted ∧ t.err = s.err) ∧
    (s.mode = .awaitingKey → (s.input.key = none → t.mode = .awaitingKey) ∧
      (s.input.key ≠ none → t.mode = .ready)) ∧
    (s.mode = .ready → t.mode = .awaitingKey → ∃ x, s.Fetches (.ldVxK x) ∧ t.waitx = x)

/-- R221, R224: a cycle that ends in a fatal error leaves everything but `MODE` and `ERR` as it was when the cycle
began, whichever instruction or check raised it; errors are precise (`pc` too is put back: the spec's decision D2). -/
def Obligations.FatalErrorUndoesTheCycle : Prop :=
  ∀ s t : State, s.mode = .ready → cycle s = .next t → t.mode = .halted →
    t.err.isSome = true ∧ SameBut [.status] s t

/-- R222: which instruction can raise which error in its execute step; the others cannot raise. -/
def Obligations.OnlySixInstructionsRaise : Prop :=
  ∀ (i : Instr) (s t : State), s.mode = .ready → exec i s = .next t → t.mode = .halted →
    (i = .ret ∧ t.err = some (.stackUnderflow 0)) ∨
    ((∃ nnn, i = .call nnn) ∧ t.err = some (.stackOverflow 16)) ∨
    (((∃ x, i = .ldBVx x) ∨ (∃ x, i = .ldMemVx x) ∨ (∃ x, i = .ldVxMem x) ∨ (∃ x y n, i = .drw x y n ∧ 1 ≤ n)) ∧
      ∃ a, t.err = some (.outOfRangeAccess a) ∧ 4096 ≤ a.toNat)

/-- R226: from a halted state any number of steps answers a halted state with the same error record; only the timers
go on, never up (the spec's decisions D15, D21). -/
def Obligations.HaltedStaysHalted : Prop :=
  ∀ (k : Nat) (s : State), s.mode = .halted →
    ∃ t, core.run k s = .next t ∧ SameCoreBut [.dt, .st] s t ∧
      t.dt.toNat ≤ s.dt.toNat ∧ t.st.toNat ≤ s.st.toNat

/-- R268: from a parked state any number of steps answers a parked state; only the timers change (the spec's
decision D17 names this state the end of a run). -/
def Obligations.ParkedStaysParked : Prop :=
  ∀ (k : Nat) (s : State), s.Parked →
    ∃ t, core.run k s = .next t ∧ t.Parked ∧ SameCoreBut [.dt, .st] s t

/-! ### Control flow -/

/-- R120: `RET` pops into `pc`, or is the fatal error `StackUnderflow(0)`. -/
def Obligations.ReturnPopsOrUnderflows : Prop :=
  ∀ s : State, encode .ret = 0x00EE ∧
    (∀ h : 0 < s.sp.val, ∃ t, exec .ret s = .next t ∧ t.pc = s.stack[s.sp.val - 1] ∧ t.sp.val = s.sp.val - 1 ∧
      (∀ k : Fin 16, t.stack[k] = s.stack[k]) ∧ SameBut [.pc, .stack] s t) ∧
    (s.sp.val = 0 → ∃ t, exec .ret s = .next t ∧ t.mode = .halted ∧ t.err = some (.stackUnderflow 0) ∧
      SameBut [.status] s t)

/-- R122: `CALL nnn` pushes the address of the instruction after it and jumps, or is the fatal error
`StackOverflow(16)` (which address is pushed: the spec's decision D28). -/
def Obligations.CallPushesOrOverflows : Prop :=
  ∀ (nnn : BitVec 12) (s : State), (encode (.call nnn)).toNat = 0x2000 + nnn.toNat ∧
    (∀ h : s.sp.val < 16, ∃ t, exec (.call nnn) s = .next t ∧ t.pc.toNat = nnn.toNat ∧ t.sp.val = s.sp.val + 1 ∧
      t.stack[s.sp.val] = s.pc + 2 ∧ (∀ k : Fin 16, k.val ≠ s.sp.val → t.stack[k] = s.stack[k]) ∧
      SameBut [.pc, .stack] s t) ∧
    (s.sp.val = 16 → ∃ t, exec (.call nnn) s = .next t ∧ t.mode = .halted ∧ t.err = some (.stackOverflow 16) ∧
      SameBut [.status] s t)

/-- R121: `JP nnn` overwrites the program counter. -/
def Obligations.JumpOverwritesThePc : Prop :=
  ∀ (nnn : BitVec 12) (s : State), (encode (.jp nnn)).toNat = 0x1000 + nnn.toNat ∧
    ∃ t, exec (.jp nnn) s = .next t ∧ t.pc.toNat = nnn.toNat ∧ SameBut [.pc] s t

/-- R127: `JP V0, nnn` adds `V[0]` without any wrap, up to 0x10FE (that the offset is `V[0]`: the spec's decision
D30). -/
def Obligations.JumpWithOffsetDoesNotWrap : Prop :=
  ∀ (nnn : BitVec 12) (s : State), (encode (.jpV0 nnn)).toNat = 0xB000 + nnn.toNat ∧
    ∃ t, exec (.jpV0 nnn) s = .next t ∧ t.pc.toNat = nnn.toNat + (s.reg 0).toNat ∧ t.pc.toNat ≤ 0x10FE ∧
      SameBut [.pc] s t

/-- R123, R124, R125, R126: the four register skips pass over the next two bytes exactly when their condition
holds. -/
def Obligations.RegisterSkips : Prop :=
  ∀ (x y : RegIx) (kk : Byte) (s : State),
    ((encode (.seVxKk x kk)).toNat = 0x3000 + x.val * 256 + kk.toNat ∧
      ∃ t, exec (.seVxKk x kk) s = .next t ∧ t.pc = (if s.reg x = kk then s.pc + 4 else s.pc + 2) ∧
        SameBut [.pc] s t) ∧
    ((encode (.sneVxKk x kk)).toNat = 0x4000 + x.val * 256 + kk.toNat ∧
      ∃ t, exec (.sneVxKk x kk) s = .next t ∧ t.pc = (if s.reg x = kk then s.pc + 2 else s.pc + 4) ∧
        SameBut [.pc] s t) ∧
    ((encode (.seVxVy x y)).toNat = 0x5000 + x.val * 256 + y.val * 16 ∧
      ∃ t, exec (.seVxVy x y) s = .next t ∧ t.pc = (if s.reg x = s.reg y then s.pc + 4 else s.pc + 2) ∧
        SameBut [.pc] s t) ∧
    ((encode (.sneVxVy x y)).toNat = 0x9000 + x.val * 256 + y.val * 16 ∧
      ∃ t, exec (.sneVxVy x y) s = .next t ∧ t.pc = (if s.reg x = s.reg y then s.pc + 2 else s.pc + 4) ∧
        SameBut [.pc] s t)

/-! ### Register, arithmetic, logic, shift, random -/

/-- R141, R142, R143: the loads and the add without a flag. -/
def Obligations.LoadsAndAddImmediate : Prop :=
  ∀ (x y : RegIx) (kk : Byte) (s : State),
    ((encode (.ldVxKk x kk)).toNat = 0x6000 + x.val * 256 + kk.toNat ∧
      ∃ t, exec (.ldVxKk x kk) s = .next t ∧ t.reg x = kk ∧ t.pc = s.pc + 2 ∧ SameBut [.reg x, .pc] s t) ∧
    ((encode (.addVxKk x kk)).toNat = 0x7000 + x.val * 256 + kk.toNat ∧
      ∃ t, exec (.addVxKk x kk) s = .next t ∧ (t.reg x).toNat = ((s.reg x).toNat + kk.toNat) % 256 ∧
        t.pc = s.pc + 2 ∧ SameBut [.reg x, .pc] s t) ∧
    ((encode (.ldVxVy x y)).toNat = 0x8000 + x.val * 256 + y.val * 16 ∧
      ∃ t, exec (.ldVxVy x y) s = .next t ∧ t.reg x = s.reg y ∧ t.pc = s.pc + 2 ∧ SameBut [.reg x, .pc] s t)

/-- R144, R145, R146: the logic operations, bit by bit; no flag is defined, so `VF` stays unless it is the
destination (the spec's decision D6). -/
def Obligations.LogicOperations : Prop :=
  ∀ (x y : RegIx) (s : State),
    ((encode (.orVxVy x y)).toNat = 0x8001 + x.val * 256 + y.val * 16 ∧
      ∃ t, exec (.orVxVy x y) s = .next t ∧
        (∀ j < 8, (t.reg x).getLsbD j = ((s.reg x).getLsbD j || (s.reg y).getLsbD j)) ∧
        t.pc = s.pc + 2 ∧ SameBut [.reg x, .pc] s t) ∧
    ((encode (.andVxVy x y)).toNat = 0x8002 + x.val * 256 + y.val * 16 ∧
      ∃ t, exec (.andVxVy x y) s = .next t ∧
        (∀ j < 8, (t.reg x).getLsbD j = ((s.reg x).getLsbD j && (s.reg y).getLsbD j)) ∧
        t.pc = s.pc + 2 ∧ SameBut [.reg x, .pc] s t) ∧
    ((encode (.xorVxVy x y)).toNat = 0x8003 + x.val * 256 + y.val * 16 ∧
      ∃ t, exec (.xorVxVy x y) s = .next t ∧
        (∀ j < 8, (t.reg x).getLsbD j = ((s.reg x).getLsbD j ^^ (s.reg y).getLsbD j)) ∧
        t.pc = s.pc + 2 ∧ SameBut [.reg x, .pc] s t)

/-- R147: the sum wraps into `V[x]`, the carry goes to `VF`, last; with `x = 15` the flag remains. -/
def Obligations.AddSetsCarry : Prop :=
  ∀ (x y : RegIx) (s : State), (encode (.addVxVy x y)).toNat = 0x8004 + x.val * 256 + y.val * 16 ∧
    ∃ t, exec (.addVxVy x y) s = .next t ∧
      (x ≠ 15 → (t.reg x).toNat = ((s.reg x).toNat + (s.reg y).toNat) % 256) ∧
      t.reg 15 = (if (s.reg x).toNat + (s.reg y).toNat > 255 then 1 else 0) ∧
      t.pc = s.pc + 2 ∧ SameBut [.reg x, .reg 15, .pc] s t

/-- R148, R150: the two subtractions; the flag is 1 exactly when the minuend is not below the subtrahend. -/
def Obligations.SubtractionsSetNoBorrow : Prop :=
  ∀ (x y : RegIx) (s : State),
    ((encode (.subVxVy x y)).toNat = 0x8005 + x.val * 256 + y.val * 16 ∧
      ∃ t, exec (.subVxVy x y) s = .next t ∧
        (x ≠ 15 → (t.reg x).toNat = ((s.reg x).toNat + 256 - (s.reg y).toNat) % 256) ∧
        t.reg 15 = (if (s.reg x).toNat ≥ (s.reg y).toNat then 1 else 0) ∧
        t.pc = s.pc + 2 ∧ SameBut [.reg x, .reg 15, .pc] s t) ∧
    ((encode (.subnVxVy x y)).toNat = 0x8007 + x.val * 256 + y.val * 16 ∧
      ∃ t, exec (.subnVxVy x y) s = .next t ∧
        (x ≠ 15 → (t.reg x).toNat = ((s.reg y).toNat + 256 - (s.reg x).toNat) % 256) ∧
        t.reg 15 = (if (s.reg y).toNat ≥ (s.reg x).toNat then 1 else 0) ∧
        t.pc = s.pc + 2 ∧ SameBut [.reg x, .reg 15, .pc] s t)

/-- R149, R151: the shifts by one of `V[x]`, for every value of the unused field `y`; the flag is the bit shifted
out (that the source is `V[x]`: the spec's decision D5). -/
def Obligations.ShiftsSetTheBitShiftedOut : Prop :=
  ∀ (x y : RegIx) (s : State),
    ((encode (.shrVx x y)).toNat = 0x8006 + x.val * 256 + y.val * 16 ∧
      ∃ t, exec (.shrVx x y) s = .next t ∧ (x ≠ 15 → (t.reg x).toNat = (s.reg x).toNat / 2) ∧
        (t.reg 15).toNat = (s.reg x).toNat % 2 ∧ t.pc = s.pc + 2 ∧ SameBut [.reg x, .reg 15, .pc] s t) ∧
    ((encode (.shlVx x y)).toNat = 0x800E + x.val * 256 + y.val * 16 ∧
      ∃ t, exec (.shlVx x y) s = .next t ∧ (x ≠ 15 → (t.reg x).toNat = (s.reg x).toNat * 2 % 256) ∧
        (t.reg 15).toNat = (s.reg x).toNat / 128 ∧ t.pc = s.pc + 2 ∧ SameBut [.reg x, .reg 15, .pc] s t)

/-- R152: `RND` stores the byte of the `rand` port under the mask, whatever that byte is (the spec's
decision D19). -/
def Obligations.RandomByteUnderMask : Prop :=
  ∀ (x : RegIx) (kk : Byte) (s : State), (encode (.rndVxKk x kk)).toNat = 0xC000 + x.val * 256 + kk.toNat ∧
    ∃ t, exec (.rndVxKk x kk) s = .next t ∧
      (∀ j < 8, (t.reg x).getLsbD j = (s.input.rand.getLsbD j && kk.getLsbD j)) ∧
      t.pc = s.pc + 2 ∧ SameBut [.reg x, .pc] s t

/-- R21: after an instruction that defines a flag result and does not halt, `VF` is 0x00 or 0x01, also where `VF`
is itself the destination. -/
def Obligations.FlagResultIsZeroOrOne : Prop :=
  ∀ (x y : RegIx) (n : Nat) (s t : State),
    ∀ i ∈ [Instr.addVxVy x y, .subVxVy x y, .shrVx x y, .subnVxVy x y, .shlVx x y, .drw x y n],
      exec i s = .next t → t.mode ≠ .halted → t.reg 15 = 0 ∨ t.reg 15 = 1

/-! ### Address register and memory -/

/-- R170: `LD I, nnn`. -/
def Obligations.LoadAddressRegister : Prop :=
  ∀ (nnn : BitVec 12) (s : State), (encode (.ldI nnn)).toNat = 0xA000 + nnn.toNat ∧
    ∃ t, exec (.ldI nnn) s = .next t ∧ t.i.toNat = nnn.toNat ∧ t.pc = s.pc + 2 ∧ SameBut [.i, .pc] s t

/-- R171, R172: the add to `I` wraps at 16 bits, defines no flag and checks no range (the spec's decision D7); the
font address is five times the low four bits of `V[x]` (decision D8). -/
def Obligations.AddressRegisterComputed : Prop :=
  ∀ (x : RegIx) (s : State),
    ((encode (.addIVx x)).toNat = 0xF01E + x.val * 256 ∧
      ∃ t, exec (.addIVx x) s = .next t ∧ t.i.toNat = (s.i.toNat + (s.reg x).toNat) % 65536 ∧ t.pc = s.pc + 2 ∧
        SameBut [.i, .pc] s t) ∧
    ((encode (.ldFVx x)).toNat = 0xF029 + x.val * 256 ∧
      ∃ t, exec (.ldFVx x) s = .next t ∧ t.i.toNat = 5 * ((s.reg x).toNat % 16) ∧ t.pc = s.pc + 2 ∧
        SameBut [.i, .pc] s t)

/-- R173: the three decimal digits go to `I`, `I+1`, `I+2`; every other byte stays; an address above 4095 is the
fatal error and no byte is written. The memory is taken in its canonical form, which every step keeps. -/
def Obligations.DecimalDigitsStored : Prop :=
  ∀ (x : RegIx) (s : State), (encode (.ldBVx x)).toNat = 0xF033 + x.val * 256 ∧
    (s.mem.wf = true → s.effAddr 2 ≤ 4095 → ∃ t, exec (.ldBVx x) s = .next t ∧
      (t.mem.read (s.effAddr 0)).toNat = (s.reg x).toNat / 100 ∧
      (t.mem.read (s.effAddr 1)).toNat = (s.reg x).toNat / 10 % 10 ∧
      (t.mem.read (s.effAddr 2)).toNat = (s.reg x).toNat % 10 ∧
      (∀ a, a < s.effAddr 0 ∨ s.effAddr 2 < a → t.mem.read a = s.mem.read a) ∧
      t.pc = s.pc + 2 ∧ SameBut [.memory, .pc] s t) ∧
    (s.effAddr 2 > 4095 → ∃ t, exec (.ldBVx x) s = .next t ∧ t.mode = .halted ∧
      t.err = some (.outOfRangeAccess (BitVec.ofNat 17 (max s.i.toNat 4096))) ∧ SameBut [.status] s t)

/-- R174: `V[0]` .. `V[x]` go to `I` .. `I+x`, `I` ends at `I + x + 1`; every other byte stays; an address above
4095 is the fatal error and nothing is written. The memory is taken in its canonical form. That `I` moves is the spec's
decision D9. -/
def Obligations.BulkStore : Prop :=
  ∀ (x : RegIx) (s : State), (encode (.ldMemVx x)).toNat = 0xF055 + x.val * 256 ∧
    (s.mem.wf = true → s.effAddr x.val ≤ 4095 → ∃ t, exec (.ldMemVx x) s = .next t ∧
      (∀ k : RegIx, k ≤ x → t.mem.read (s.effAddr k.val) = s.reg k) ∧
      (∀ a, a < s.effAddr 0 ∨ s.effAddr x.val < a → t.mem.read a = s.mem.read a) ∧
      t.i.toNat = s.i.toNat + x.val + 1 ∧ t.pc = s.pc + 2 ∧ SameBut [.memory, .i, .pc] s t) ∧
    (s.effAddr x.val > 4095 → ∃ t, exec (.ldMemVx x) s = .next t ∧ t.mode = .halted ∧
      t.err = some (.outOfRangeAccess (BitVec.ofNat 17 (max s.i.toNat 4096))) ∧ SameBut [.status] s t)

/-- R175: `V[0]` .. `V[x]` are loaded from `I` .. `I+x`, the registers above `x` stay, `I` ends at `I + x + 1`; an
address above 4095 is the fatal error and no register changes. That `I` moves is the spec's decision D9. -/
def Obligations.BulkLoad : Prop :=
  ∀ (x : RegIx) (s : State), (encode (.ldVxMem x)).toNat = 0xF065 + x.val * 256 ∧
    (s.effAddr x.val ≤ 4095 → ∃ t, exec (.ldVxMem x) s = .next t ∧
      (∀ k : RegIx, k ≤ x → t.reg k = s.mem.read (s.effAddr k.val)) ∧
      t.i.toNat = s.i.toNat + x.val + 1 ∧ t.pc = s.pc + 2 ∧ SameBut (piecesTo x ++ [.i, .pc]) s t) ∧
    (s.effAddr x.val > 4095 → ∃ t, exec (.ldVxMem x) s = .next t ∧ t.mode = .halted ∧
      t.err = some (.outOfRangeAccess (BitVec.ofNat 17 (max s.i.toNat 4096))) ∧ SameBut [.status] s t)

/-- R72, R266: registers stored over the instruction stream are what the very next fetch reads. -/
def Obligations.StoreIsSeenByTheNextFetch : Prop :=
  ∀ (x : RegIx) (s t : State) (k : Nat) (hk : k + 1 ≤ x.val), s.mem.wf = true → s.effAddr x.val ≤ 4095 →
    exec (.ldMemVx x) s = .next t → t.pc.toNat = s.effAddr k →
    fetch t = .ok (wordOfBytes (s.reg ⟨k, by omega⟩) (s.reg ⟨k + 1, by omega⟩))

/-- R68: the range check passes exactly when no address of the access is above 4095, and otherwise reports the
lowest one that is (the spec's decisions D1, D26). -/
def Obligations.RangeCheckReportsTheLowestAddress : Prop :=
  ∀ lo count : Nat,
    (checkRange lo count = .ok () ↔ ∀ k < count, lo + k ≤ 4095) ∧
    (∀ e, checkRange lo count = .error e → ∃ k < count, e = .outOfRangeAccess (BitVec.ofNat 17 (lo + k)) ∧
      lo + k > 4095 ∧ ∀ j < k, lo + j ≤ 4095)

/-- R62, R63: single reads and writes are range-checked (that an address above 4095 is rejected and not wrapped: the
spec's decision D1); a read after a write gives the byte written at its address and every other address as before. The
memory is taken in its canonical form, and the write keeps it: that form is the model's own (log 6). -/
def Obligations.ByteReadsAndWrites : Prop :=
  ∀ (m : Memory) (addr : Nat) (x : Byte), m.wf = true →
    (addr > 4095 → memRead m addr = .error (.outOfRangeAccess (BitVec.ofNat 17 addr)) ∧
      memWrite m addr x = .error (.outOfRangeAccess (BitVec.ofNat 17 addr))) ∧
    (addr ≤ 4095 → memRead m addr = .ok (m.read addr) ∧
      ∃ m', memWrite m addr x = .ok m' ∧ m'.wf = true ∧ m'.read addr = x ∧
        ∀ a, a ≠ addr → m'.read a = m.read a)

/-! ### Display -/

/-- R192: `CLS` clears every pixel. -/
def Obligations.ClearDisplay : Prop :=
  ∀ s : State, encode .cls = 0x00E0 ∧
    ∃ t, exec .cls s = .next t ∧ (∀ r c, t.fb.pixel r c = false) ∧ t.pc = s.pc + 2 ∧ SameBut [.pixels, .pc] s t

/-- R191, R193: `DRW` flips exactly the pixels that set bits of the sprite fall on, wrapping on both axes; `VF` is 1
exactly when one of them was set; a row outside memory is the fatal error; no row is no access and no fault
(the spec's decisions D10, D25). -/
def Obligations.DrawFlipsTheSpritesPixels : Prop :=
  ∀ (x y : RegIx) (n : Nat) (s : State), n ≤ 15 →
    (encode (.drw x y n)).toNat = 0xD000 + x.val * 256 + y.val * 16 + n ∧
    (n = 0 ∨ s.effAddr n ≤ 4096 → ∃ t, exec (.drw x y n) s = .next t ∧
      (∀ r c, (SpriteHits s (s.reg x).toNat (s.reg y).toNat n r c → t.fb.pixel r c = !s.fb.pixel r c) ∧
        (¬ SpriteHits s (s.reg x).toNat (s.reg y).toNat n r c → t.fb.pixel r c = s.fb.pixel r c)) ∧
      ((∃ r c, SpriteHits s (s.reg x).toNat (s.reg y).toNat n r c ∧ s.fb.pixel r c = true) → t.reg 15 = 1) ∧
      (¬ (∃ r c, SpriteHits s (s.reg x).toNat (s.reg y).toNat n r c ∧ s.fb.pixel r c = true) → t.reg 15 = 0) ∧
      t.pc = s.pc + 2 ∧ SameBut [.pixels, .reg 15, .pc] s t) ∧
    (1 ≤ n → s.effAddr n > 4096 → ∃ t, exec (.drw x y n) s = .next t ∧ t.mode = .halted ∧
      t.err = some (.outOfRangeAccess (BitVec.ofNat 17 (max s.i.toNat 4096))) ∧ SameBut [.status] s t)

/-- R193(g): the same sprite drawn twice at the same coordinates cancels, and the second draw reports a collision
exactly when the first set a pixel. -/
def Obligations.DrawnTwiceCancels : Prop :=
  ∀ (x y : RegIx) (n : Nat) (s t u : State), n ≤ 15 → n = 0 ∨ s.effAddr n ≤ 4096 →
    exec (.drw x y n) s = .next t → t.reg x = s.reg x → t.reg y = s.reg y → exec (.drw x y n) t = .next u →
    (∀ r c, u.fb.pixel r c = s.fb.pixel r c) ∧
    (u.reg 15 = 1 ↔ ∃ r c, s.fb.pixel r c = false ∧ t.fb.pixel r c = true)

/-! ### Keypad and timers -/

/-- R200, R201: the key skips compare the sampled key code with all 8 bits of `V[x]`, and are complements (the
spec's decision D11). -/
def Obligations.KeySkips : Prop :=
  ∀ (x : RegIx) (s : State),
    ((encode (.skpVx x)).toNat = 0xE09E + x.val * 256 ∧
      ∃ t, exec (.skpVx x) s = .next t ∧
        ((∃ k : Key, s.input.key = some k ∧ k.val = (s.reg x).toNat) → t.pc = s.pc + 4) ∧
        (¬ (∃ k : Key, s.input.key = some k ∧ k.val = (s.reg x).toNat) → t.pc = s.pc + 2) ∧ SameBut [.pc] s t) ∧
    ((encode (.sknpVx x)).toNat = 0xE0A1 + x.val * 256 ∧
      ∃ t, exec (.sknpVx x) s = .next t ∧
        ((∃ k : Key, s.input.key = some k ∧ k.val = (s.reg x).toNat) → t.pc = s.pc + 2) ∧
        (¬ (∃ k : Key, s.input.key = some k ∧ k.val = (s.reg x).toNat) → t.pc = s.pc + 4) ∧ SameBut [.pc] s t)

/-- R202: both parts of the key wait. Entering it changes `WAITX` and `MODE` alone, whatever the key; each later
cycle changes nothing without a key, and with one completes the instruction (the spec's decision D12). -/
def Obligations.KeyWait : Prop :=
  ∀ (x : RegIx) (s : State),
    ((encode (.ldVxK x)).toNat = 0xF00A + x.val * 256 ∧
      ∃ t, exec (.ldVxK x) s = .next t ∧ t.waitx = x ∧ t.mode = .awaitingKey ∧ t.err = s.err ∧
        SameBut [.waitx, .status] s t) ∧
    (s.mode = .awaitingKey → s.input.key = none → cycle s = .next s) ∧
    (∀ k : Key, s.mode = .awaitingKey → s.input.key = some k → ∃ t, cycle s = .next t ∧
      (t.reg s.waitx).toNat = k.val ∧ t.pc = s.pc + 2 ∧ t.mode = .ready ∧ t.err = s.err ∧
      SameBut [.reg s.waitx, .pc, .status] s t)

/-- R203, R204, R205: reading and setting the timers; `sound_active` follows `ST` at once. -/
def Obligations.TimerInstructions : Prop :=
  ∀ (x : RegIx) (s : State),
    ((encode (.ldVxDT x)).toNat = 0xF007 + x.val * 256 ∧
      ∃ t, exec (.ldVxDT x) s = .next t ∧ t.reg x = s.dt ∧ t.pc = s.pc + 2 ∧ SameBut [.reg x, .pc] s t) ∧
    ((encode (.ldDTVx x)).toNat = 0xF015 + x.val * 256 ∧
      ∃ t, exec (.ldDTVx x) s = .next t ∧ t.dt = s.reg x ∧ t.pc = s.pc + 2 ∧ SameBut [.dt, .pc] s t) ∧
    ((encode (.ldSTVx x)).toNat = 0xF018 + x.val * 256 ∧
      ∃ t, exec (.ldSTVx x) s = .next t ∧ t.st = s.reg x ∧ (t.soundActive = true ↔ s.reg x ≠ 0) ∧
        t.pc = s.pc + 2 ∧ SameBut [.st, .pc] s t)

/-- R231, R232: `n` tick events count both timers down by `n`, stopping at 0, in every run state (the spec's
decision D15), and change nothing else. -/
def Obligations.TicksCountDownToZero : Prop :=
  ∀ (n : Nat) (s : State),
    (State.tick^[n] s).dt.toNat = s.dt.toNat - n ∧ (State.tick^[n] s).st.toNat = s.st.toNat - n ∧
    SameBut [.dt, .st] s (State.tick^[n] s)

/-- R203, R231, R267: in one step the delay timer never rises unless the step executes `LD DT, Vx`. -/
def Obligations.DelayTimerRisesOnlyByStore : Prop :=
  ∀ s t : State, step s = .next t → s.dt.toNat < t.dt.toNat → s.mode = .ready ∧ ∃ x, s.Fetches (.ldDTVx x)

/-! ### The call stack, reset, the host -/

/-- R26: what is pushed is what is popped next, sixteen deep; a push at depth 16 and a pop at depth 0 are the fatal
errors. -/
def Obligations.PushThenPopReturnsTheValue : Prop :=
  ∀ (s : State) (w : Word),
    (s.sp.val < 16 → ∃ t u, push s w = .ok t ∧ t.sp.val = s.sp.val + 1 ∧ pop t = .ok (w, u) ∧ u.sp = s.sp ∧
      ∀ k : Fin 16, k.val < s.sp.val → u.stack[k] = s.stack[k]) ∧
    (s.sp.val = 16 → push s w = .error (.stackOverflow 16)) ∧
    (s.sp.val = 0 → pop s = .error (.stackUnderflow 0))

/-- R35, R260: after a reset from any state every piece of CORE's state has the value of the reset table (the
spec's decision D13 for the rows the source does not list). What the outside presents is kept (the model's choice,
log 9), and the window of `load` is open again (R73). -/
def Obligations.ResetLeavesTheResetTable : Prop :=
  ∀ s : State, (∀ k, s.hostReset.reg k = 0) ∧ s.hostReset.i = 0 ∧ s.hostReset.pc = 0x0200 ∧ s.hostReset.sp = 0 ∧
    (∀ k : Fin 16, s.hostReset.stack[k] = 0) ∧ s.hostReset.dt = 0 ∧ s.hostReset.st = 0 ∧
    (∀ r c, s.hostReset.fb.pixel r c = false) ∧ (∀ a, s.hostReset.mem.read a = 0) ∧ s.hostReset.mode = .ready ∧
    s.hostReset.waitx = 0 ∧ s.hostReset.err = none ∧ s.hostReset.soundActive = false ∧
    SameCoreBut [] State.reset s.hostReset ∧
    s.hostReset.input = s.input ∧ s.hostReset.script = s.script ∧ s.hostReset.drawn = s.drawn ∧
    s.hostReset.started = false

/-- R261: the machine is `Ready` after reset, and its first cycle with nothing loaded is
`DecodeError(0x0000, 0x0200)` (memory is all zero by the spec's decision D13). -/
def Obligations.NothingLoadedIsADecodeError : Prop :=
  State.reset.mode = .ready ∧
  ∃ t, cycle State.reset = .next t ∧ t.mode = .halted ∧ t.err = some (.decodeError 0x0000 0x0200) ∧
    SameBut [.status] State.reset t

/-- R73: `load` between reset and the first cycle writes exactly its bytes and nothing else; one that does not fit is
refused whole; after any step it is not permitted. The memory is taken in its canonical form.
The spec's decision D20; how a late `load` is answered is the model's choice (log 8). -/
def Obligations.LoadWritesItsBytesOrNothing : Prop :=
  ∀ (s : State) (bytes : List Byte) (base : Nat), s.mem.wf = true →
    (s.started = false → base + bytes.length ≤ 4096 → ∃ t, s.load bytes base = .loaded t ∧
      (∀ (k : Nat) (h : k < bytes.length), t.mem.read (base + k) = bytes[k]) ∧
      (∀ a, a < base ∨ base + bytes.length ≤ a → t.mem.read a = s.mem.read a) ∧ SameBut [.memory] s t) ∧
    (s.started = false → base + bytes.length > 4096 → s.load bytes base = .outOfRange (max base 4096)) ∧
    (∀ t, step s = .next t → t.load bytes base = .notPermitted)

/-- R262, R263: booting from any state with a program of at most 3584 bytes leaves the font at 0, the program at
0x200, everything else of memory 0, and the machine `Ready` at 0x200. The font's bytes are from general knowledge, as
R263 says; that the rest of memory is 0 is what reset leaves (R260), the spec's decision D13 (log 6, DESIGN CHOICE). -/
def Obligations.BootInstallsFontAndProgram : Prop :=
  ∀ (s : State) (program : List Byte), program.length ≤ 3584 → ∃ t, s.boot program = .loaded t ∧
    t.pc = 0x0200 ∧ t.mode = .ready ∧
    (∀ (k : Nat) (h : k < Config.fontTable.length), t.mem.read k = Config.fontTable[k]) ∧
    (∀ (k : Nat) (h : k < program.length), t.mem.read (0x200 + k) = program[k]) ∧
    (∀ a, 80 ≤ a → a < 0x200 ∨ 0x200 + program.length ≤ a → t.mem.read a = 0)

/-- Log 5: where an instruction is placed to be fetched next, the next step runs it. -/
def Obligations.PlacedWordIsTheOneExecuted : Prop :=
  ∀ (s : State) (i : Instr), s.mem.wf = true → s.pc.toNat ≤ 4094 → i.wellFormed = true →
    step (s.withFetchWord 16 (encode i).toNat) =
      match exec i (s.withFetchWord 16 (encode i).toNat).deliverTicks with
      | .next t => .next t.presentNext
      | .fault r => .fault r
      | .refused r => .refused r

/-! ### The whole machine -/

/-- R36, column "written by": no instruction writes a piece of state it is not listed for, a fatal error's `MODE` and
`ERR` among them. -/
def Obligations.InstructionsWriteOnlyTheirPieces : Prop :=
  ∀ (i : Instr) (s t : State), exec i s = .next t → SameBut (writtenPieces i) s t

/-- R28, R36: no instruction reads `ST`: run from two states that differ in `ST` alone, an instruction leaves two
states that differ in `ST` alone. -/
def Obligations.SoundTimerIsNeverRead : Prop :=
  ∀ (i : Instr) (s t : State) (b : Byte), exec i s = .next t →
    ∃ u, exec i (s.setSt b) = .next u ∧ u.setSt 0 = t.setSt 0

/-- R25, R36: the slots at and above `SP` are not observable: run from two states that differ in such a slot alone,
an instruction leaves states that agree in everything but slots at and above their `SP`. -/
def Obligations.VacantSlotsAreUnobservable : Prop :=
  ∀ (i : Instr) (s t : State) (k : Fin 16) (w : Word), s.sp.val ≤ k.val → exec i s = .next t →
    ∃ u, exec i { s with stack := s.stack.set k w } = .next u ∧ { u with stack := t.stack } = t ∧
      ∀ j : Fin 16, j.val < t.sp.val → u.stack[j] = t.stack[j]

/-- R29, R36: the display buffer is read by `DRW` alone: run from two states that differ in it alone, any other
instruction leaves states that differ in it alone. -/
def Obligations.DisplayIsReadByDrawAlone : Prop :=
  ∀ (i : Instr) (s t : State) (fb : Display), (∀ x y n, i ≠ .drw x y n) → exec i s = .next t →
    ∃ u, exec i (s.setFb fb) = .next u ∧ u.setFb Display.clear = t.setFb Display.clear

/-- R94: the key is sampled by `SKP` and `SKNP` alone and the random byte by `RND` alone, among the instructions:
presented with something else there, any other instruction does the same. -/
def Obligations.InputsAreSampledWhereTheRulesSay : Prop :=
  ∀ (i : Instr) (s t : State) (key : Option Key) (rand : Byte), exec i s = .next t →
    ((∀ x, i ≠ .skpVx x ∧ i ≠ .sknpVx x) →
      exec i { s with input := { s.input with key := key } } = .next { t with input := { t.input with key := key } }) ∧
    ((∀ x kk, i ≠ .rndVxKk x kk) →
      exec i { s with input := { s.input with rand := rand } } =
        .next { t with input := { t.input with rand := rand } })

/-- R30 and log 6: memory has one form: canonical memories that read alike at every address are equal. -/
def Obligations.CanonicalMemoriesThatReadAlikeAreEqual : Prop :=
  ∀ m m' : Memory, m.wf = true → m'.wf = true → (∀ a, m.read a = m'.read a) → m = m'

/-- The reset state meets the invariant `State.Inv`. -/
def Obligations.ResetMeetsTheInvariant : Prop := State.reset.Inv

/-- R24, R30, R32, R33, R120, R220, R224: every step from any state that meets the invariant answers a state that
meets it: the memory is canonical, live stack entries are return addresses in 2..4096, `pc` is at most 0x10FE, an
error record stands exactly while `Halted` and tells the truth, and while `AwaitingKey` the word at `pc` is
`LD V[WAITX], K`. -/
def Obligations.StepKeepsTheInvariant : Prop :=
  ∀ s t : State, s.Inv → step s = .next t → t.Inv

/-- R24, R30, R32, R33, R120, R220, R224: from any state that meets the invariant, any number of steps answers a
state that meets it; no run stops, and none leaves the invariant. -/
def Obligations.RunsKeepTheInvariant : Prop :=
  ∀ (k : Nat) (s : State), s.Inv → ∃ t, core.run k s = .next t ∧ t.Inv
end

