-- ==== Sys2Proof/Laws/Decode.lean ====
section
/-! SUPPORT. Reading a field of a word built by a format gives back the operand; bytes of a word join to it. -/

namespace Sys2Proof

theorem opFam_toNat (w : Word) : (opFam w).val = w.toNat / 4096 := by
  have := w.isLt
  simp [opFam, Nat.shiftRight_eq_div_pow]; omega

theorem opX_toNat (w : Word) : (opX w).val = w.toNat / 256 % 16 := by
  simp [opX, Nat.shiftRight_eq_div_pow]

theorem opY_toNat (w : Word) : (opY w).val = w.toNat / 16 % 16 := by
  simp [opY, Nat.shiftRight_eq_div_pow]

theorem opN_toNat (w : Word) : (opN w).val = w.toNat % 16 := by simp [opN]

theorem opKk_toNat (w : Word) : (opKk w).toNat = w.toNat % 256 := by simp [opKk]

theorem opNnn_toNat (w : Word) : (opNnn w).toNat = w.toNat % 4096 := by simp [opNnn]

theorem formatA_toNat (f : BitVec 4) (nnn : BitVec 12) :
    (formatA f nnn).toNat = f.toNat * 4096 + nnn.toNat := by
  have h := nnn.isLt
  simp only [formatA, BitVec.toNat_append]
  rw [← Nat.shiftLeft_add_eq_or_of_lt h, Nat.shiftLeft_eq]

theorem formatI_toNat (f : BitVec 4) (x : RegIx) (kk : Byte) :
    (formatI f x kk).toNat = f.toNat * 4096 + x.val * 256 + kk.toNat := by
  have h := kk.isLt
  rw [formatI, formatA_toNat, BitVec.toNat_append]
  rw [← Nat.shiftLeft_add_eq_or_of_lt h, Nat.shiftLeft_eq]
  simp; omega

theorem formatR_toNat (f : BitVec 4) (x y : RegIx) (n : BitVec 4) :
    (formatR f x y n).toNat = f.toNat * 4096 + x.val * 256 + y.val * 16 + n.toNat := by
  have h := n.isLt
  rw [formatR, formatI_toNat, BitVec.toNat_append]
  rw [← Nat.shiftLeft_add_eq_or_of_lt h, Nat.shiftLeft_eq]
  simp; omega

@[simp] theorem opFam_formatA (f : BitVec 4) (nnn : BitVec 12) : opFam (formatA f nnn) = f.toFin := by
  have := nnn.isLt
  apply Fin.ext; rw [opFam_toNat, formatA_toNat]; simp; omega

@[simp] theorem opNnn_formatA (f : BitVec 4) (nnn : BitVec 12) : opNnn (formatA f nnn) = nnn := by
  have := nnn.isLt
  apply BitVec.eq_of_toNat_eq; rw [opNnn_toNat, formatA_toNat]; omega

@[simp] theorem opFam_formatI (f : BitVec 4) (x : RegIx) (kk : Byte) : opFam (formatI f x kk) = f.toFin :=
  opFam_formatA f _

@[simp] theorem opX_formatI (f : BitVec 4) (x : RegIx) (kk : Byte) : opX (formatI f x kk) = x := by
  have := kk.isLt; have := x.isLt
  apply Fin.ext; rw [opX_toNat, formatI_toNat]; omega

@[simp] theorem opKk_formatI (f : BitVec 4) (x : RegIx) (kk : Byte) : opKk (formatI f x kk) = kk := by
  have := kk.isLt
  apply BitVec.eq_of_toNat_eq; rw [opKk_toNat, formatI_toNat]; omega

@[simp] theorem opFam_formatR (f : BitVec 4) (x y : RegIx) (n : BitVec 4) :
    opFam (formatR f x y n) = f.toFin := opFam_formatI f x _

@[simp] theorem opX_formatR (f : BitVec 4) (x y : RegIx) (n : BitVec 4) : opX (formatR f x y n) = x :=
  opX_formatI f x _

@[simp] theorem opY_formatR (f : BitVec 4) (x y : RegIx) (n : BitVec 4) : opY (formatR f x y n) = y := by
  have := n.isLt; have := y.isLt
  apply Fin.ext; rw [opY_toNat, formatR_toNat]; omega

@[simp] theorem opN_formatR (f : BitVec 4) (x y : RegIx) (n : BitVec 4) : opN (formatR f x y n) = n.toFin := by
  have := n.isLt
  apply Fin.ext; rw [opN_toNat, formatR_toNat]; simp; omega

/-- A word is the format of its own fields: family and address. -/
theorem formatA_fields {w : Word} {f : BitVec 4} (h : (opFam w).val = f.toNat) : formatA f (opNnn w) = w := by
  apply BitVec.eq_of_toNat_eq
  rw [formatA_toNat, opNnn_toNat]; rw [opFam_toNat] at h; omega

/-- Family, register, byte. -/
theorem formatI_fields {w : Word} {f : BitVec 4} (h : (opFam w).val = f.toNat) :
    formatI f (opX w) (opKk w) = w := by
  apply BitVec.eq_of_toNat_eq
  rw [formatI_toNat, opX_toNat, opKk_toNat]; rw [opFam_toNat] at h; omega

/-- Family, two registers, last digit. -/
theorem formatR_fields {w : Word} {f n : BitVec 4} (h : (opFam w).val = f.toNat) (hn : (opN w).val = n.toNat) :
    formatR f (opX w) (opY w) n = w := by
  apply BitVec.eq_of_toNat_eq
  rw [formatR_toNat, opX_toNat, opY_toNat]; rw [opFam_toNat] at h; rw [opN_toNat] at hn; omega

/-- The two bytes of a word, high byte first, join to the word (R64). -/
@[simp] theorem wordOfBytes_bytes (w : Word) : wordOfBytes (hiByte w) (loByte w) = w := by
  have := w.isLt
  apply BitVec.eq_of_toNat_eq
  have h : (loByte w).toNat < 2 ^ 8 := (loByte w).isLt
  rw [wordOfBytes, BitVec.toNat_append, ← Nat.shiftLeft_add_eq_or_of_lt h, Nat.shiftLeft_eq]
  simp [hiByte, loByte, Nat.shiftRight_eq_div_pow]; omega

/-- The value of a fetched word (R64). -/
theorem wordOfBytes_toNat (hi lo : Byte) : (wordOfBytes hi lo).toNat = hi.toNat * 256 + lo.toNat := by
  rw [wordOfBytes, BitVec.toNat_append, ← Nat.shiftLeft_add_eq_or_of_lt lo.isLt, Nat.shiftLeft_eq]

end Sys2Proof
end

