-- ==== Sys2Proof/Laws/Memory.lean ====
section
/-! SUPPORT. The memory's laws: a read after a write, a write elsewhere, and that every memory operation keeps
the canonical form. -/

namespace Sys2Proof.Machine

/-- One entry of a canonical memory, and the rest. -/
theorem Memory.wfFrom_cons {lo a : Nat} {x : Byte} {m : Memory} :
    Memory.wfFrom lo ((a, x) :: m) = true ↔
      lo ≤ a ∧ a < 4096 ∧ x ≠ 0 ∧ Memory.wfFrom (a + 1) m = true := by
  simp [Memory.wfFrom, Config.memSize, and_assoc]

/-- Canonical from `lo` is canonical from any lower address. -/
theorem Memory.wfFrom_mono {lo lo' : Nat} {m : Memory} (h : Memory.wfFrom lo m = true) (hl : lo' ≤ lo) :
    Memory.wfFrom lo' m = true := by
  cases m with
  | nil => rfl
  | cons c m =>
    obtain ⟨a, x⟩ := c
    rw [Memory.wfFrom_cons] at h ⊢
    exact ⟨by omega, h.2⟩

/-- Below its first address a canonical memory reads 0x00. -/
theorem Memory.read_below {lo : Nat} {m : Memory} (h : Memory.wfFrom lo m = true) {a : Nat} (ha : a < lo) :
    m.read a = 0 := by
  induction m generalizing lo with
  | nil => rfl
  | cons c m ih =>
    obtain ⟨b, x⟩ := c
    rw [Memory.wfFrom_cons] at h
    rw [Memory.read, if_neg (by omega)]
    exact ih h.2.2.2 (by omega)

/-- Above 4095 a canonical memory reads 0x00. -/
theorem Memory.read_above {lo : Nat} {m : Memory} (h : Memory.wfFrom lo m = true) {a : Nat} (ha : 4096 ≤ a) :
    m.read a = 0 := by
  induction m generalizing lo with
  | nil => rfl
  | cons c m ih =>
    obtain ⟨b, x⟩ := c
    rw [Memory.wfFrom_cons] at h
    rw [Memory.read, if_neg (by omega)]
    exact ih h.2.2.2

/-- A write keeps the canonical form from the lower of the two addresses. -/
theorem Memory.wfFrom_write {lo : Nat} {m : Memory} (h : Memory.wfFrom lo m = true) {a : Nat} (hl : lo ≤ a)
    (ha : a < 4096) (x : Byte) : Memory.wfFrom lo (m.write a x) = true := by
  induction m generalizing lo with
  | nil =>
    rw [Memory.write]
    split
    · rfl
    · next hx => exact Memory.wfFrom_cons.2 ⟨hl, ha, hx, rfl⟩
  | cons c m ih =>
    obtain ⟨b, y⟩ := c
    have hc := Memory.wfFrom_cons.1 h
    rw [Memory.write]
    split
    · next hab =>
      split
      · exact h
      · next hx =>
        exact Memory.wfFrom_cons.2 ⟨hl, ha, hx, Memory.wfFrom_cons.2 ⟨by omega, hc.2⟩⟩
    · split
      · next hab =>
        subst hab
        split
        · exact Memory.wfFrom_mono hc.2.2.2 (by omega)
        · next hx => exact Memory.wfFrom_cons.2 ⟨hl, ha, hx, hc.2.2.2⟩
      · exact Memory.wfFrom_cons.2 ⟨hc.1, hc.2.1, hc.2.2.1, ih hc.2.2.2 (by omega)⟩

/-- A write in range keeps the canonical form. -/
theorem Memory.wf_write {m : Memory} (h : m.wf = true) {a : Nat} (ha : a < 4096) (x : Byte) :
    (m.write a x).wf = true := Memory.wfFrom_write h (Nat.zero_le a) ha x

/-- Writes in range keep the canonical form. -/
theorem Memory.wf_writeMany {m : Memory} (h : m.wf = true) (bytes : List Byte) {a : Nat}
    (ha : a + bytes.length ≤ 4096) : (m.writeMany a bytes).wf = true := by
  induction bytes generalizing m a with
  | nil => exact h
  | cons x rest ih =>
    simp only [List.length_cons] at ha
    exact ih (Memory.wf_write h (by omega) x) (by omega)

theorem Memory.read_writeFrom {lo : Nat} {m : Memory} (h : Memory.wfFrom lo m = true) (a b : Nat) (x : Byte) :
    (m.write a x).read b = if b = a then x else m.read b := by
  induction m generalizing lo with
  | nil =>
    rw [Memory.write]
    split
    · next hx => simp [Memory.read, hx]
    · simp only [Memory.read, eq_comm (a := a)]
  | cons c m ih =>
    obtain ⟨d, y⟩ := c
    have hc := Memory.wfFrom_cons.1 h
    rw [Memory.write]
    split
    · next had =>
      split
      · next hx =>
        by_cases hb : b = a
        · subst hb
          rw [if_pos rfl, Memory.read_below (Memory.wfFrom_cons.2 ⟨Nat.le_refl d, hc.2⟩) had, hx]
        · rw [if_neg hb]
      · simp only [Memory.read, eq_comm (a := a)]
    · split
      · next had =>
        subst had
        split
        · next hx =>
          by_cases hb : b = a
          · subst hb
            rw [if_pos rfl, Memory.read_below hc.2.2.2 (Nat.lt_succ_self b), hx]
          · rw [if_neg hb, Memory.read, if_neg (Ne.symm hb)]
        · by_cases hb : b = a
          · simp [Memory.read, hb]
          · simp [Memory.read, hb, Ne.symm hb]
      · next hlt hne =>
        simp only [Memory.read]
        split
        · next hdb => rw [if_neg (by omega)]
        · exact ih hc.2.2.2

/-- A read after a write: the byte written at its address, every other address as before. -/
theorem Memory.read_write {m : Memory} (h : m.wf = true) (a b : Nat) (x : Byte) :
    (m.write a x).read b = if b = a then x else m.read b := Memory.read_writeFrom h a b x

/-- A read after stores at rising addresses. -/
theorem Memory.read_writeMany {m : Memory} (h : m.wf = true) (bytes : List Byte) {a : Nat}
    (ha : a + bytes.length ≤ 4096) (b : Nat) :
    (m.writeMany a bytes).read b =
      if hb : a ≤ b ∧ b - a < bytes.length then bytes[b - a]'hb.2 else m.read b := by
  induction bytes generalizing m a with
  | nil => simp [Memory.writeMany]
  | cons x rest ih =>
    simp only [List.length_cons] at ha
    rw [Memory.writeMany, ih (Memory.wf_write h (by omega) x) (by omega), Memory.read_write h]
    by_cases h1 : b = a
    · subst h1; simp
    · by_cases h2 : a + 1 ≤ b ∧ b - (a + 1) < rest.length
      · have h3 : a ≤ b ∧ b - a < (x :: rest).length := by simp only [List.length_cons]; omega
        rw [dif_pos h2, dif_pos h3]
        have h4 : b - a = b - (a + 1) + 1 := by omega
        simp [h4]
      · have h3 : ¬ (a ≤ b ∧ b - a < (x :: rest).length) := by simp only [List.length_cons]; omega
        rw [dif_neg h2, dif_neg h3, if_neg h1]

@[simp] theorem Memory.length_readMany (m : Memory) (a n : Nat) : (m.readMany a n).length = n := by
  induction n generalizing a with
  | zero => rfl
  | succ n ih => simp [Memory.readMany, ih]

/-- Byte `k` of a block read. -/
theorem Memory.getElem_readMany (m : Memory) (a n k : Nat) (h : k < (m.readMany a n).length) :
    (m.readMany a n)[k] = m.read (a + k) := by
  induction n generalizing a k with
  | zero => simp [Memory.readMany] at h
  | succ n ih =>
    cases k with
    | zero => rfl
    | succ k =>
      simp only [Memory.readMany, List.getElem_cons_succ]
      rw [ih]
      congr 1; omega

/-- The reset memory is canonical. -/
theorem Memory.wf_reset : State.reset.mem.wf = true := rfl

/-- Placing an instruction word where the fetch finds it keeps the canonical form. -/
theorem State.placeWord_wf {s : State} (h : s.mem.wf = true) (hp : s.pc.toNat < 4095) (w : Word) :
    (s.placeWord w).mem.wf = true :=
  Memory.wf_write (Memory.wf_write h (by omega) _) (by omega) _

end Sys2Proof.Machine
end

