-- ==== Sys2Proof/Laws/State.lean ====
section
/-! SUPPORT. One lemma per field of State per named update, so that no proof unfolds a record update. -/

namespace Sys2Proof.Machine

/-! ### setReg -/

@[simp] theorem State.setReg_v (s : State) (k : RegIx) (b : Byte) : (s.setReg k b).v = s.v.set k b := rfl
@[simp] theorem State.setReg_i (s : State) (k : RegIx) (b : Byte) : (s.setReg k b).i = s.i := rfl
@[simp] theorem State.setReg_pc (s : State) (k : RegIx) (b : Byte) : (s.setReg k b).pc = s.pc := rfl
@[simp] theorem State.setReg_stack (s : State) (k : RegIx) (b : Byte) : (s.setReg k b).stack = s.stack := rfl
@[simp] theorem State.setReg_sp (s : State) (k : RegIx) (b : Byte) : (s.setReg k b).sp = s.sp := rfl
@[simp] theorem State.setReg_dt (s : State) (k : RegIx) (b : Byte) : (s.setReg k b).dt = s.dt := rfl
@[simp] theorem State.setReg_st (s : State) (k : RegIx) (b : Byte) : (s.setReg k b).st = s.st := rfl
@[simp] theorem State.setReg_fb (s : State) (k : RegIx) (b : Byte) : (s.setReg k b).fb = s.fb := rfl
@[simp] theorem State.setReg_mem (s : State) (k : RegIx) (b : Byte) : (s.setReg k b).mem = s.mem := rfl
@[simp] theorem State.setReg_mode (s : State) (k : RegIx) (b : Byte) : (s.setReg k b).mode = s.mode := rfl
@[simp] theorem State.setReg_waitx (s : State) (k : RegIx) (b : Byte) : (s.setReg k b).waitx = s.waitx := rfl
@[simp] theorem State.setReg_err (s : State) (k : RegIx) (b : Byte) : (s.setReg k b).err = s.err := rfl
@[simp] theorem State.setReg_input (s : State) (k : RegIx) (b : Byte) : (s.setReg k b).input = s.input := rfl
@[simp] theorem State.setReg_script (s : State) (k : RegIx) (b : Byte) : (s.setReg k b).script = s.script := rfl
@[simp] theorem State.setReg_drawn (s : State) (k : RegIx) (b : Byte) : (s.setReg k b).drawn = s.drawn := rfl
@[simp] theorem State.setReg_started (s : State) (k : RegIx) (b : Byte) : (s.setReg k b).started = s.started := rfl

/-! ### setV -/

@[simp] theorem State.setV_v (s : State) (v : Vector Byte 16) : (s.setV v).v = v := rfl
@[simp] theorem State.setV_i (s : State) (v : Vector Byte 16) : (s.setV v).i = s.i := rfl
@[simp] theorem State.setV_pc (s : State) (v : Vector Byte 16) : (s.setV v).pc = s.pc := rfl
@[simp] theorem State.setV_stack (s : State) (v : Vector Byte 16) : (s.setV v).stack = s.stack := rfl
@[simp] theorem State.setV_sp (s : State) (v : Vector Byte 16) : (s.setV v).sp = s.sp := rfl
@[simp] theorem State.setV_dt (s : State) (v : Vector Byte 16) : (s.setV v).dt = s.dt := rfl
@[simp] theorem State.setV_st (s : State) (v : Vector Byte 16) : (s.setV v).st = s.st := rfl
@[simp] theorem State.setV_fb (s : State) (v : Vector Byte 16) : (s.setV v).fb = s.fb := rfl
@[simp] theorem State.setV_mem (s : State) (v : Vector Byte 16) : (s.setV v).mem = s.mem := rfl
@[simp] theorem State.setV_mode (s : State) (v : Vector Byte 16) : (s.setV v).mode = s.mode := rfl
@[simp] theorem State.setV_waitx (s : State) (v : Vector Byte 16) : (s.setV v).waitx = s.waitx := rfl
@[simp] theorem State.setV_err (s : State) (v : Vector Byte 16) : (s.setV v).err = s.err := rfl
@[simp] theorem State.setV_input (s : State) (v : Vector Byte 16) : (s.setV v).input = s.input := rfl
@[simp] theorem State.setV_script (s : State) (v : Vector Byte 16) : (s.setV v).script = s.script := rfl
@[simp] theorem State.setV_drawn (s : State) (v : Vector Byte 16) : (s.setV v).drawn = s.drawn := rfl
@[simp] theorem State.setV_started (s : State) (v : Vector Byte 16) : (s.setV v).started = s.started := rfl

/-! ### setI -/

@[simp] theorem State.setI_v (s : State) (w : Word) : (s.setI w).v = s.v := rfl
@[simp] theorem State.setI_i (s : State) (w : Word) : (s.setI w).i = w := rfl
@[simp] theorem State.setI_pc (s : State) (w : Word) : (s.setI w).pc = s.pc := rfl
@[simp] theorem State.setI_stack (s : State) (w : Word) : (s.setI w).stack = s.stack := rfl
@[simp] theorem State.setI_sp (s : State) (w : Word) : (s.setI w).sp = s.sp := rfl
@[simp] theorem State.setI_dt (s : State) (w : Word) : (s.setI w).dt = s.dt := rfl
@[simp] theorem State.setI_st (s : State) (w : Word) : (s.setI w).st = s.st := rfl
@[simp] theorem State.setI_fb (s : State) (w : Word) : (s.setI w).fb = s.fb := rfl
@[simp] theorem State.setI_mem (s : State) (w : Word) : (s.setI w).mem = s.mem := rfl
@[simp] theorem State.setI_mode (s : State) (w : Word) : (s.setI w).mode = s.mode := rfl
@[simp] theorem State.setI_waitx (s : State) (w : Word) : (s.setI w).waitx = s.waitx := rfl
@[simp] theorem State.setI_err (s : State) (w : Word) : (s.setI w).err = s.err := rfl
@[simp] theorem State.setI_input (s : State) (w : Word) : (s.setI w).input = s.input := rfl
@[simp] theorem State.setI_script (s : State) (w : Word) : (s.setI w).script = s.script := rfl
@[simp] theorem State.setI_drawn (s : State) (w : Word) : (s.setI w).drawn = s.drawn := rfl
@[simp] theorem State.setI_started (s : State) (w : Word) : (s.setI w).started = s.started := rfl
@[simp] theorem State.setI_reg (s : State) (w : Word) (j : RegIx) : (s.setI w).reg j = s.reg j := rfl

/-! ### setPc -/

@[simp] theorem State.setPc_v (s : State) (w : Word) : (s.setPc w).v = s.v := rfl
@[simp] theorem State.setPc_i (s : State) (w : Word) : (s.setPc w).i = s.i := rfl
@[simp] theorem State.setPc_pc (s : State) (w : Word) : (s.setPc w).pc = w := rfl
@[simp] theorem State.setPc_stack (s : State) (w : Word) : (s.setPc w).stack = s.stack := rfl
@[simp] theorem State.setPc_sp (s : State) (w : Word) : (s.setPc w).sp = s.sp := rfl
@[simp] theorem State.setPc_dt (s : State) (w : Word) : (s.setPc w).dt = s.dt := rfl
@[simp] theorem State.setPc_st (s : State) (w : Word) : (s.setPc w).st = s.st := rfl
@[simp] theorem State.setPc_fb (s : State) (w : Word) : (s.setPc w).fb = s.fb := rfl
@[simp] theorem State.setPc_mem (s : State) (w : Word) : (s.setPc w).mem = s.mem := rfl
@[simp] theorem State.setPc_mode (s : State) (w : Word) : (s.setPc w).mode = s.mode := rfl
@[simp] theorem State.setPc_waitx (s : State) (w : Word) : (s.setPc w).waitx = s.waitx := rfl
@[simp] theorem State.setPc_err (s : State) (w : Word) : (s.setPc w).err = s.err := rfl
@[simp] theorem State.setPc_input (s : State) (w : Word) : (s.setPc w).input = s.input := rfl
@[simp] theorem State.setPc_script (s : State) (w : Word) : (s.setPc w).script = s.script := rfl
@[simp] theorem State.setPc_drawn (s : State) (w : Word) : (s.setPc w).drawn = s.drawn := rfl
@[simp] theorem State.setPc_started (s : State) (w : Word) : (s.setPc w).started = s.started := rfl
@[simp] theorem State.setPc_reg (s : State) (w : Word) (j : RegIx) : (s.setPc w).reg j = s.reg j := rfl

/-! ### setDt -/

@[simp] theorem State.setDt_v (s : State) (b : Byte) : (s.setDt b).v = s.v := rfl
@[simp] theorem State.setDt_i (s : State) (b : Byte) : (s.setDt b).i = s.i := rfl
@[simp] theorem State.setDt_pc (s : State) (b : Byte) : (s.setDt b).pc = s.pc := rfl
@[simp] theorem State.setDt_stack (s : State) (b : Byte) : (s.setDt b).stack = s.stack := rfl
@[simp] theorem State.setDt_sp (s : State) (b : Byte) : (s.setDt b).sp = s.sp := rfl
@[simp] theorem State.setDt_dt (s : State) (b : Byte) : (s.setDt b).dt = b := rfl
@[simp] theorem State.setDt_st (s : State) (b : Byte) : (s.setDt b).st = s.st := rfl
@[simp] theorem State.setDt_fb (s : State) (b : Byte) : (s.setDt b).fb = s.fb := rfl
@[simp] theorem State.setDt_mem (s : State) (b : Byte) : (s.setDt b).mem = s.mem := rfl
@[simp] theorem State.setDt_mode (s : State) (b : Byte) : (s.setDt b).mode = s.mode := rfl
@[simp] theorem State.setDt_waitx (s : State) (b : Byte) : (s.setDt b).waitx = s.waitx := rfl
@[simp] theorem State.setDt_err (s : State) (b : Byte) : (s.setDt b).err = s.err := rfl
@[simp] theorem State.setDt_input (s : State) (b : Byte) : (s.setDt b).input = s.input := rfl
@[simp] theorem State.setDt_script (s : State) (b : Byte) : (s.setDt b).script = s.script := rfl
@[simp] theorem State.setDt_drawn (s : State) (b : Byte) : (s.setDt b).drawn = s.drawn := rfl
@[simp] theorem State.setDt_started (s : State) (b : Byte) : (s.setDt b).started = s.started := rfl
@[simp] theorem State.setDt_reg (s : State) (b : Byte) (j : RegIx) : (s.setDt b).reg j = s.reg j := rfl

/-! ### setSt -/

@[simp] theorem State.setSt_v (s : State) (b : Byte) : (s.setSt b).v = s.v := rfl
@[simp] theorem State.setSt_i (s : State) (b : Byte) : (s.setSt b).i = s.i := rfl
@[simp] theorem State.setSt_pc (s : State) (b : Byte) : (s.setSt b).pc = s.pc := rfl
@[simp] theorem State.setSt_stack (s : State) (b : Byte) : (s.setSt b).stack = s.stack := rfl
@[simp] theorem State.setSt_sp (s : State) (b : Byte) : (s.setSt b).sp = s.sp := rfl
@[simp] theorem State.setSt_dt (s : State) (b : Byte) : (s.setSt b).dt = s.dt := rfl
@[simp] theorem State.setSt_st (s : State) (b : Byte) : (s.setSt b).st = b := rfl
@[simp] theorem State.setSt_fb (s : State) (b : Byte) : (s.setSt b).fb = s.fb := rfl
@[simp] theorem State.setSt_mem (s : State) (b : Byte) : (s.setSt b).mem = s.mem := rfl
@[simp] theorem State.setSt_mode (s : State) (b : Byte) : (s.setSt b).mode = s.mode := rfl
@[simp] theorem State.setSt_waitx (s : State) (b : Byte) : (s.setSt b).waitx = s.waitx := rfl
@[simp] theorem State.setSt_err (s : State) (b : Byte) : (s.setSt b).err = s.err := rfl
@[simp] theorem State.setSt_input (s : State) (b : Byte) : (s.setSt b).input = s.input := rfl
@[simp] theorem State.setSt_script (s : State) (b : Byte) : (s.setSt b).script = s.script := rfl
@[simp] theorem State.setSt_drawn (s : State) (b : Byte) : (s.setSt b).drawn = s.drawn := rfl
@[simp] theorem State.setSt_started (s : State) (b : Byte) : (s.setSt b).started = s.started := rfl
@[simp] theorem State.setSt_reg (s : State) (b : Byte) (j : RegIx) : (s.setSt b).reg j = s.reg j := rfl

/-! ### setFb -/

@[simp] theorem State.setFb_v (s : State) (d : Display) : (s.setFb d).v = s.v := rfl
@[simp] theorem State.setFb_i (s : State) (d : Display) : (s.setFb d).i = s.i := rfl
@[simp] theorem State.setFb_pc (s : State) (d : Display) : (s.setFb d).pc = s.pc := rfl
@[simp] theorem State.setFb_stack (s : State) (d : Display) : (s.setFb d).stack = s.stack := rfl
@[simp] theorem State.setFb_sp (s : State) (d : Display) : (s.setFb d).sp = s.sp := rfl
@[simp] theorem State.setFb_dt (s : State) (d : Display) : (s.setFb d).dt = s.dt := rfl
@[simp] theorem State.setFb_st (s : State) (d : Display) : (s.setFb d).st = s.st := rfl
@[simp] theorem State.setFb_fb (s : State) (d : Display) : (s.setFb d).fb = d := rfl
@[simp] theorem State.setFb_mem (s : State) (d : Display) : (s.setFb d).mem = s.mem := rfl
@[simp] theorem State.setFb_mode (s : State) (d : Display) : (s.setFb d).mode = s.mode := rfl
@[simp] theorem State.setFb_waitx (s : State) (d : Display) : (s.setFb d).waitx = s.waitx := rfl
@[simp] theorem State.setFb_err (s : State) (d : Display) : (s.setFb d).err = s.err := rfl
@[simp] theorem State.setFb_input (s : State) (d : Display) : (s.setFb d).input = s.input := rfl
@[simp] theorem State.setFb_script (s : State) (d : Display) : (s.setFb d).script = s.script := rfl
@[simp] theorem State.setFb_drawn (s : State) (d : Display) : (s.setFb d).drawn = s.drawn := rfl
@[simp] theorem State.setFb_started (s : State) (d : Display) : (s.setFb d).started = s.started := rfl
@[simp] theorem State.setFb_reg (s : State) (d : Display) (j : RegIx) : (s.setFb d).reg j = s.reg j := rfl

/-! ### setMem -/

@[simp] theorem State.setMem_v (s : State) (m : Memory) : (s.setMem m).v = s.v := rfl
@[simp] theorem State.setMem_i (s : State) (m : Memory) : (s.setMem m).i = s.i := rfl
@[simp] theorem State.setMem_pc (s : State) (m : Memory) : (s.setMem m).pc = s.pc := rfl
@[simp] theorem State.setMem_stack (s : State) (m : Memory) : (s.setMem m).stack = s.stack := rfl
@[simp] theorem State.setMem_sp (s : State) (m : Memory) : (s.setMem m).sp = s.sp := rfl
@[simp] theorem State.setMem_dt (s : State) (m : Memory) : (s.setMem m).dt = s.dt := rfl
@[simp] theorem State.setMem_st (s : State) (m : Memory) : (s.setMem m).st = s.st := rfl
@[simp] theorem State.setMem_fb (s : State) (m : Memory) : (s.setMem m).fb = s.fb := rfl
@[simp] theorem State.setMem_mem (s : State) (m : Memory) : (s.setMem m).mem = m := rfl
@[simp] theorem State.setMem_mode (s : State) (m : Memory) : (s.setMem m).mode = s.mode := rfl
@[simp] theorem State.setMem_waitx (s : State) (m : Memory) : (s.setMem m).waitx = s.waitx := rfl
@[simp] theorem State.setMem_err (s : State) (m : Memory) : (s.setMem m).err = s.err := rfl
@[simp] theorem State.setMem_input (s : State) (m : Memory) : (s.setMem m).input = s.input := rfl
@[simp] theorem State.setMem_script (s : State) (m : Memory) : (s.setMem m).script = s.script := rfl
@[simp] theorem State.setMem_drawn (s : State) (m : Memory) : (s.setMem m).drawn = s.drawn := rfl
@[simp] theorem State.setMem_started (s : State) (m : Memory) : (s.setMem m).started = s.started := rfl
@[simp] theorem State.setMem_reg (s : State) (m : Memory) (j : RegIx) : (s.setMem m).reg j = s.reg j := rfl

/-! ### setMode -/

@[simp] theorem State.setMode_v (s : State) (m : Mode) : (s.setMode m).v = s.v := rfl
@[simp] theorem State.setMode_i (s : State) (m : Mode) : (s.setMode m).i = s.i := rfl
@[simp] theorem State.setMode_pc (s : State) (m : Mode) : (s.setMode m).pc = s.pc := rfl
@[simp] theorem State.setMode_stack (s : State) (m : Mode) : (s.setMode m).stack = s.stack := rfl
@[simp] theorem State.setMode_sp (s : State) (m : Mode) : (s.setMode m).sp = s.sp := rfl
@[simp] theorem State.setMode_dt (s : State) (m : Mode) : (s.setMode m).dt = s.dt := rfl
@[simp] theorem State.setMode_st (s : State) (m : Mode) : (s.setMode m).st = s.st := rfl
@[simp] theorem State.setMode_fb (s : State) (m : Mode) : (s.setMode m).fb = s.fb := rfl
@[simp] theorem State.setMode_mem (s : State) (m : Mode) : (s.setMode m).mem = s.mem := rfl
@[simp] theorem State.setMode_mode (s : State) (m : Mode) : (s.setMode m).mode = m := rfl
@[simp] theorem State.setMode_waitx (s : State) (m : Mode) : (s.setMode m).waitx = s.waitx := rfl
@[simp] theorem State.setMode_err (s : State) (m : Mode) : (s.setMode m).err = s.err := rfl
@[simp] theorem State.setMode_input (s : State) (m : Mode) : (s.setMode m).input = s.input := rfl
@[simp] theorem State.setMode_script (s : State) (m : Mode) : (s.setMode m).script = s.script := rfl
@[simp] theorem State.setMode_drawn (s : State) (m : Mode) : (s.setMode m).drawn = s.drawn := rfl
@[simp] theorem State.setMode_started (s : State) (m : Mode) : (s.setMode m).started = s.started := rfl
@[simp] theorem State.setMode_reg (s : State) (m : Mode) (j : RegIx) : (s.setMode m).reg j = s.reg j := rfl

/-! ### advance -/

@[simp] theorem State.advance_v (s : State) : (s.advance).v = s.v := rfl
@[simp] theorem State.advance_i (s : State) : (s.advance).i = s.i := rfl
@[simp] theorem State.advance_pc (s : State) : (s.advance).pc = s.pc + 2 := rfl
@[simp] theorem State.advance_stack (s : State) : (s.advance).stack = s.stack := rfl
@[simp] theorem State.advance_sp (s : State) : (s.advance).sp = s.sp := rfl
@[simp] theorem State.advance_dt (s : State) : (s.advance).dt = s.dt := rfl
@[simp] theorem State.advance_st (s : State) : (s.advance).st = s.st := rfl
@[simp] theorem State.advance_fb (s : State) : (s.advance).fb = s.fb := rfl
@[simp] theorem State.advance_mem (s : State) : (s.advance).mem = s.mem := rfl
@[simp] theorem State.advance_mode (s : State) : (s.advance).mode = s.mode := rfl
@[simp] theorem State.advance_waitx (s : State) : (s.advance).waitx = s.waitx := rfl
@[simp] theorem State.advance_err (s : State) : (s.advance).err = s.err := rfl
@[simp] theorem State.advance_input (s : State) : (s.advance).input = s.input := rfl
@[simp] theorem State.advance_script (s : State) : (s.advance).script = s.script := rfl
@[simp] theorem State.advance_drawn (s : State) : (s.advance).drawn = s.drawn := rfl
@[simp] theorem State.advance_started (s : State) : (s.advance).started = s.started := rfl
@[simp] theorem State.advance_reg (s : State) (j : RegIx) : (s.advance).reg j = s.reg j := rfl

/-! ### skipIf -/

@[simp] theorem State.skipIf_v (s : State) (c : Bool) : (s.skipIf c).v = s.v := rfl
@[simp] theorem State.skipIf_i (s : State) (c : Bool) : (s.skipIf c).i = s.i := rfl
@[simp] theorem State.skipIf_pc (s : State) (c : Bool) : (s.skipIf c).pc = if c then s.pc + 4 else s.pc + 2 := by
  cases c
  · rfl
  · exact BitVec.add_assoc s.pc 2 2
@[simp] theorem State.skipIf_stack (s : State) (c : Bool) : (s.skipIf c).stack = s.stack := rfl
@[simp] theorem State.skipIf_sp (s : State) (c : Bool) : (s.skipIf c).sp = s.sp := rfl
@[simp] theorem State.skipIf_dt (s : State) (c : Bool) : (s.skipIf c).dt = s.dt := rfl
@[simp] theorem State.skipIf_st (s : State) (c : Bool) : (s.skipIf c).st = s.st := rfl
@[simp] theorem State.skipIf_fb (s : State) (c : Bool) : (s.skipIf c).fb = s.fb := rfl
@[simp] theorem State.skipIf_mem (s : State) (c : Bool) : (s.skipIf c).mem = s.mem := rfl
@[simp] theorem State.skipIf_mode (s : State) (c : Bool) : (s.skipIf c).mode = s.mode := rfl
@[simp] theorem State.skipIf_waitx (s : State) (c : Bool) : (s.skipIf c).waitx = s.waitx := rfl
@[simp] theorem State.skipIf_err (s : State) (c : Bool) : (s.skipIf c).err = s.err := rfl
@[simp] theorem State.skipIf_input (s : State) (c : Bool) : (s.skipIf c).input = s.input := rfl
@[simp] theorem State.skipIf_script (s : State) (c : Bool) : (s.skipIf c).script = s.script := rfl
@[simp] theorem State.skipIf_drawn (s : State) (c : Bool) : (s.skipIf c).drawn = s.drawn := rfl
@[simp] theorem State.skipIf_started (s : State) (c : Bool) : (s.skipIf c).started = s.started := rfl
@[simp] theorem State.skipIf_reg (s : State) (c : Bool) (j : RegIx) : (s.skipIf c).reg j = s.reg j := rfl

/-! ### setRegFlag -/

@[simp] theorem State.setRegFlag_v (s : State) (x : RegIx) (r : Byte × Bool) : (s.setRegFlag x r).v = (s.v.set x r.1).set (15 : RegIx) (flagByte r.2) := rfl
@[simp] theorem State.setRegFlag_i (s : State) (x : RegIx) (r : Byte × Bool) : (s.setRegFlag x r).i = s.i := rfl
@[simp] theorem State.setRegFlag_pc (s : State) (x : RegIx) (r : Byte × Bool) : (s.setRegFlag x r).pc = s.pc := rfl
@[simp] theorem State.setRegFlag_stack (s : State) (x : RegIx) (r : Byte × Bool) : (s.setRegFlag x r).stack = s.stack := rfl
@[simp] theorem State.setRegFlag_sp (s : State) (x : RegIx) (r : Byte × Bool) : (s.setRegFlag x r).sp = s.sp := rfl
@[simp] theorem State.setRegFlag_dt (s : State) (x : RegIx) (r : Byte × Bool) : (s.setRegFlag x r).dt = s.dt := rfl
@[simp] theorem State.setRegFlag_st (s : State) (x : RegIx) (r : Byte × Bool) : (s.setRegFlag x r).st = s.st := rfl
@[simp] theorem State.setRegFlag_fb (s : State) (x : RegIx) (r : Byte × Bool) : (s.setRegFlag x r).fb = s.fb := rfl
@[simp] theorem State.setRegFlag_mem (s : State) (x : RegIx) (r : Byte × Bool) : (s.setRegFlag x r).mem = s.mem := rfl
@[simp] theorem State.setRegFlag_mode (s : State) (x : RegIx) (r : Byte × Bool) : (s.setRegFlag x r).mode = s.mode := rfl
@[simp] theorem State.setRegFlag_waitx (s : State) (x : RegIx) (r : Byte × Bool) : (s.setRegFlag x r).waitx = s.waitx := rfl
@[simp] theorem State.setRegFlag_err (s : State) (x : RegIx) (r : Byte × Bool) : (s.setRegFlag x r).err = s.err := rfl
@[simp] theorem State.setRegFlag_input (s : State) (x : RegIx) (r : Byte × Bool) : (s.setRegFlag x r).input = s.input := rfl
@[simp] theorem State.setRegFlag_script (s : State) (x : RegIx) (r : Byte × Bool) : (s.setRegFlag x r).script = s.script := rfl
@[simp] theorem State.setRegFlag_drawn (s : State) (x : RegIx) (r : Byte × Bool) : (s.setRegFlag x r).drawn = s.drawn := rfl
@[simp] theorem State.setRegFlag_started (s : State) (x : RegIx) (r : Byte × Bool) : (s.setRegFlag x r).started = s.started := rfl

/-! ### enterWait -/

@[simp] theorem State.enterWait_v (s : State) (x : RegIx) : (s.enterWait x).v = s.v := rfl
@[simp] theorem State.enterWait_i (s : State) (x : RegIx) : (s.enterWait x).i = s.i := rfl
@[simp] theorem State.enterWait_pc (s : State) (x : RegIx) : (s.enterWait x).pc = s.pc := rfl
@[simp] theorem State.enterWait_stack (s : State) (x : RegIx) : (s.enterWait x).stack = s.stack := rfl
@[simp] theorem State.enterWait_sp (s : State) (x : RegIx) : (s.enterWait x).sp = s.sp := rfl
@[simp] theorem State.enterWait_dt (s : State) (x : RegIx) : (s.enterWait x).dt = s.dt := rfl
@[simp] theorem State.enterWait_st (s : State) (x : RegIx) : (s.enterWait x).st = s.st := rfl
@[simp] theorem State.enterWait_fb (s : State) (x : RegIx) : (s.enterWait x).fb = s.fb := rfl
@[simp] theorem State.enterWait_mem (s : State) (x : RegIx) : (s.enterWait x).mem = s.mem := rfl
@[simp] theorem State.enterWait_mode (s : State) (x : RegIx) : (s.enterWait x).mode = .awaitingKey := rfl
@[simp] theorem State.enterWait_waitx (s : State) (x : RegIx) : (s.enterWait x).waitx = x := rfl
@[simp] theorem State.enterWait_err (s : State) (x : RegIx) : (s.enterWait x).err = s.err := rfl
@[simp] theorem State.enterWait_input (s : State) (x : RegIx) : (s.enterWait x).input = s.input := rfl
@[simp] theorem State.enterWait_script (s : State) (x : RegIx) : (s.enterWait x).script = s.script := rfl
@[simp] theorem State.enterWait_drawn (s : State) (x : RegIx) : (s.enterWait x).drawn = s.drawn := rfl
@[simp] theorem State.enterWait_started (s : State) (x : RegIx) : (s.enterWait x).started = s.started := rfl
@[simp] theorem State.enterWait_reg (s : State) (x : RegIx) (j : RegIx) : (s.enterWait x).reg j = s.reg j := rfl

/-! ### tick -/

@[simp] theorem State.tick_v (s : State) : (s.tick).v = s.v := rfl
@[simp] theorem State.tick_i (s : State) : (s.tick).i = s.i := rfl
@[simp] theorem State.tick_pc (s : State) : (s.tick).pc = s.pc := rfl
@[simp] theorem State.tick_stack (s : State) : (s.tick).stack = s.stack := rfl
@[simp] theorem State.tick_sp (s : State) : (s.tick).sp = s.sp := rfl
@[simp] theorem State.tick_dt (s : State) : (s.tick).dt = countDown s.dt := rfl
@[simp] theorem State.tick_st (s : State) : (s.tick).st = countDown s.st := rfl
@[simp] theorem State.tick_fb (s : State) : (s.tick).fb = s.fb := rfl
@[simp] theorem State.tick_mem (s : State) : (s.tick).mem = s.mem := rfl
@[simp] theorem State.tick_mode (s : State) : (s.tick).mode = s.mode := rfl
@[simp] theorem State.tick_waitx (s : State) : (s.tick).waitx = s.waitx := rfl
@[simp] theorem State.tick_err (s : State) : (s.tick).err = s.err := rfl
@[simp] theorem State.tick_input (s : State) : (s.tick).input = s.input := rfl
@[simp] theorem State.tick_script (s : State) : (s.tick).script = s.script := rfl
@[simp] theorem State.tick_drawn (s : State) : (s.tick).drawn = s.drawn := rfl
@[simp] theorem State.tick_started (s : State) : (s.tick).started = s.started := rfl
@[simp] theorem State.tick_reg (s : State) (j : RegIx) : (s.tick).reg j = s.reg j := rfl

/-! ### ticks -/

@[simp] theorem State.ticks_v (s : State) (n : Nat) : (s.ticks n).v = s.v := rfl
@[simp] theorem State.ticks_i (s : State) (n : Nat) : (s.ticks n).i = s.i := rfl
@[simp] theorem State.ticks_pc (s : State) (n : Nat) : (s.ticks n).pc = s.pc := rfl
@[simp] theorem State.ticks_stack (s : State) (n : Nat) : (s.ticks n).stack = s.stack := rfl
@[simp] theorem State.ticks_sp (s : State) (n : Nat) : (s.ticks n).sp = s.sp := rfl
@[simp] theorem State.ticks_dt (s : State) (n : Nat) : (s.ticks n).dt = countDownN n s.dt := rfl
@[simp] theorem State.ticks_st (s : State) (n : Nat) : (s.ticks n).st = countDownN n s.st := rfl
@[simp] theorem State.ticks_fb (s : State) (n : Nat) : (s.ticks n).fb = s.fb := rfl
@[simp] theorem State.ticks_mem (s : State) (n : Nat) : (s.ticks n).mem = s.mem := rfl
@[simp] theorem State.ticks_mode (s : State) (n : Nat) : (s.ticks n).mode = s.mode := rfl
@[simp] theorem State.ticks_waitx (s : State) (n : Nat) : (s.ticks n).waitx = s.waitx := rfl
@[simp] theorem State.ticks_err (s : State) (n : Nat) : (s.ticks n).err = s.err := rfl
@[simp] theorem State.ticks_input (s : State) (n : Nat) : (s.ticks n).input = s.input := rfl
@[simp] theorem State.ticks_script (s : State) (n : Nat) : (s.ticks n).script = s.script := rfl
@[simp] theorem State.ticks_drawn (s : State) (n : Nat) : (s.ticks n).drawn = s.drawn := rfl
@[simp] theorem State.ticks_started (s : State) (n : Nat) : (s.ticks n).started = s.started := rfl
@[simp] theorem State.ticks_reg (s : State) (n : Nat) (j : RegIx) : (s.ticks n).reg j = s.reg j := rfl

/-! ### deliverTicks -/

@[simp] theorem State.deliverTicks_v (s : State) : (s.deliverTicks).v = s.v := rfl
@[simp] theorem State.deliverTicks_i (s : State) : (s.deliverTicks).i = s.i := rfl
@[simp] theorem State.deliverTicks_pc (s : State) : (s.deliverTicks).pc = s.pc := rfl
@[simp] theorem State.deliverTicks_stack (s : State) : (s.deliverTicks).stack = s.stack := rfl
@[simp] theorem State.deliverTicks_sp (s : State) : (s.deliverTicks).sp = s.sp := rfl
@[simp] theorem State.deliverTicks_dt (s : State) : (s.deliverTicks).dt = countDownN s.input.ticks s.dt := rfl
@[simp] theorem State.deliverTicks_st (s : State) : (s.deliverTicks).st = countDownN s.input.ticks s.st := rfl
@[simp] theorem State.deliverTicks_fb (s : State) : (s.deliverTicks).fb = s.fb := rfl
@[simp] theorem State.deliverTicks_mem (s : State) : (s.deliverTicks).mem = s.mem := rfl
@[simp] theorem State.deliverTicks_mode (s : State) : (s.deliverTicks).mode = s.mode := rfl
@[simp] theorem State.deliverTicks_waitx (s : State) : (s.deliverTicks).waitx = s.waitx := rfl
@[simp] theorem State.deliverTicks_err (s : State) : (s.deliverTicks).err = s.err := rfl
@[simp] theorem State.deliverTicks_input (s : State) : (s.deliverTicks).input = s.input := rfl
@[simp] theorem State.deliverTicks_script (s : State) : (s.deliverTicks).script = s.script := rfl
@[simp] theorem State.deliverTicks_drawn (s : State) : (s.deliverTicks).drawn = s.drawn := rfl
@[simp] theorem State.deliverTicks_started (s : State) : (s.deliverTicks).started = s.started := rfl
@[simp] theorem State.deliverTicks_reg (s : State) (j : RegIx) : (s.deliverTicks).reg j = s.reg j := rfl

/-! ### placeWord -/

@[simp] theorem State.placeWord_v (s : State) (w : Word) : (s.placeWord w).v = s.v := rfl
@[simp] theorem State.placeWord_i (s : State) (w : Word) : (s.placeWord w).i = s.i := rfl
@[simp] theorem State.placeWord_pc (s : State) (w : Word) : (s.placeWord w).pc = s.pc := rfl
@[simp] theorem State.placeWord_stack (s : State) (w : Word) : (s.placeWord w).stack = s.stack := rfl
@[simp] theorem State.placeWord_sp (s : State) (w : Word) : (s.placeWord w).sp = s.sp := rfl
@[simp] theorem State.placeWord_dt (s : State) (w : Word) : (s.placeWord w).dt = s.dt := rfl
@[simp] theorem State.placeWord_st (s : State) (w : Word) : (s.placeWord w).st = s.st := rfl
@[simp] theorem State.placeWord_fb (s : State) (w : Word) : (s.placeWord w).fb = s.fb := rfl
@[simp] theorem State.placeWord_mem (s : State) (w : Word) : (s.placeWord w).mem = (s.mem.write s.pc.toNat (hiByte w)).write (s.pc.toNat + 1) (loByte w) := rfl
@[simp] theorem State.placeWord_mode (s : State) (w : Word) : (s.placeWord w).mode = .ready := rfl
@[simp] theorem State.placeWord_waitx (s : State) (w : Word) : (s.placeWord w).waitx = s.waitx := rfl
@[simp] theorem State.placeWord_err (s : State) (w : Word) : (s.placeWord w).err = s.err := rfl
@[simp] theorem State.placeWord_input (s : State) (w : Word) : (s.placeWord w).input = s.input := rfl
@[simp] theorem State.placeWord_script (s : State) (w : Word) : (s.placeWord w).script = s.script := rfl
@[simp] theorem State.placeWord_drawn (s : State) (w : Word) : (s.placeWord w).drawn = s.drawn := rfl
@[simp] theorem State.placeWord_started (s : State) (w : Word) : (s.placeWord w).started = s.started := rfl
@[simp] theorem State.placeWord_reg (s : State) (w : Word) (j : RegIx) : (s.placeWord w).reg j = s.reg j := rfl

/-! ### raise -/

@[simp] theorem raise_v (e : FatalError) (s : State) : (raise e s).v = s.v := rfl
@[simp] theorem raise_i (e : FatalError) (s : State) : (raise e s).i = s.i := rfl
@[simp] theorem raise_pc (e : FatalError) (s : State) : (raise e s).pc = s.pc := rfl
@[simp] theorem raise_stack (e : FatalError) (s : State) : (raise e s).stack = s.stack := rfl
@[simp] theorem raise_sp (e : FatalError) (s : State) : (raise e s).sp = s.sp := rfl
@[simp] theorem raise_dt (e : FatalError) (s : State) : (raise e s).dt = s.dt := rfl
@[simp] theorem raise_st (e : FatalError) (s : State) : (raise e s).st = s.st := rfl
@[simp] theorem raise_fb (e : FatalError) (s : State) : (raise e s).fb = s.fb := rfl
@[simp] theorem raise_mem (e : FatalError) (s : State) : (raise e s).mem = s.mem := rfl
@[simp] theorem raise_mode (e : FatalError) (s : State) : (raise e s).mode = .halted := rfl
@[simp] theorem raise_waitx (e : FatalError) (s : State) : (raise e s).waitx = s.waitx := rfl
@[simp] theorem raise_err (e : FatalError) (s : State) : (raise e s).err = some e := rfl
@[simp] theorem raise_input (e : FatalError) (s : State) : (raise e s).input = s.input := rfl
@[simp] theorem raise_script (e : FatalError) (s : State) : (raise e s).script = s.script := rfl
@[simp] theorem raise_drawn (e : FatalError) (s : State) : (raise e s).drawn = s.drawn := rfl
@[simp] theorem raise_started (e : FatalError) (s : State) : (raise e s).started = s.started := rfl
@[simp] theorem raise_reg (e : FatalError) (s : State) (j : RegIx) : (raise e s).reg j = s.reg j := rfl

/-! ### presentNext -/

@[simp] theorem State.presentNext_v (s : State) : s.presentNext.v = s.v := by
  unfold State.presentNext; split <;> rfl
@[simp] theorem State.presentNext_i (s : State) : s.presentNext.i = s.i := by
  unfold State.presentNext; split <;> rfl
@[simp] theorem State.presentNext_pc (s : State) : s.presentNext.pc = s.pc := by
  unfold State.presentNext; split <;> rfl
@[simp] theorem State.presentNext_stack (s : State) : s.presentNext.stack = s.stack := by
  unfold State.presentNext; split <;> rfl
@[simp] theorem State.presentNext_sp (s : State) : s.presentNext.sp = s.sp := by
  unfold State.presentNext; split <;> rfl
@[simp] theorem State.presentNext_dt (s : State) : s.presentNext.dt = s.dt := by
  unfold State.presentNext; split <;> rfl
@[simp] theorem State.presentNext_st (s : State) : s.presentNext.st = s.st := by
  unfold State.presentNext; split <;> rfl
@[simp] theorem State.presentNext_fb (s : State) : s.presentNext.fb = s.fb := by
  unfold State.presentNext; split <;> rfl
@[simp] theorem State.presentNext_mem (s : State) : s.presentNext.mem = s.mem := by
  unfold State.presentNext; split <;> rfl
@[simp] theorem State.presentNext_mode (s : State) : s.presentNext.mode = s.mode := by
  unfold State.presentNext; split <;> rfl
@[simp] theorem State.presentNext_waitx (s : State) : s.presentNext.waitx = s.waitx := by
  unfold State.presentNext; split <;> rfl
@[simp] theorem State.presentNext_err (s : State) : s.presentNext.err = s.err := by
  unfold State.presentNext; split <;> rfl
@[simp] theorem State.presentNext_started (s : State) : s.presentNext.started = true := by
  unfold State.presentNext; split <;> rfl
@[simp] theorem State.presentNext_reg (s : State) (j : RegIx) : s.presentNext.reg j = s.reg j := by
  unfold State.presentNext; split <;> rfl

/-! ### Registers -/

theorem State.reg_setReg (s : State) (k j : RegIx) (b : Byte) :
    (s.setReg k b).reg j = if j = k then b else s.reg j := by
  simp only [State.reg, State.setReg, Fin.getElem_fin, Vector.getElem_set, Fin.ext_iff]
  by_cases h : k.val = j.val
  · simp [h]
  · simp [h, Ne.symm h]

@[simp] theorem State.reg_setReg_self (s : State) (k : RegIx) (b : Byte) : (s.setReg k b).reg k = b := by
  simp [State.reg_setReg]

theorem State.reg_setReg_ne (s : State) (k j : RegIx) (b : Byte) (h : j ≠ k) :
    (s.setReg k b).reg j = s.reg j := by simp [State.reg_setReg, h]

/-- Result first, flag last (R21). -/
theorem State.reg_setRegFlag (s : State) (x j : RegIx) (r : Byte × Bool) :
    (s.setRegFlag x r).reg j = if j = 15 then flagByte r.2 else if j = x then r.1 else s.reg j := by
  simp only [State.setRegFlag, State.reg_setReg]

/-- Two states with equal registers hold the same register file. -/
theorem regs_ext {s t : State} (h : ∀ k, s.reg k = t.reg k) : s.v = t.v := by
  apply Vector.ext
  intro j hj
  exact h ⟨j, hj⟩

/-! ### Ticks -/

/-- `ticks n` is the `tick` event, `n` times (R232, R233). -/
theorem State.ticks_eq_iterate (n : Nat) (s : State) : s.ticks n = State.tick^[n] s := by
  induction n generalizing s with
  | zero => rfl
  | succ n ih => rw [Function.iterate_succ_apply, ← ih]; rfl

theorem countDown_toNat (b : Byte) : (countDown b).toNat = b.toNat - 1 := by
  unfold countDown
  split
  · next h => simp [h]
  · next h =>
    have hb : b.toNat ≠ 0 := fun h0 => h (BitVec.eq_of_toNat_eq (by simpa using h0))
    have := b.isLt
    rw [BitVec.toNat_sub]; simp; omega

/-- A timer after `n` ticks is `n` lower and stops at 0 (R231). -/
theorem countDownN_toNat (n : Nat) (b : Byte) : (countDownN n b).toNat = b.toNat - n := by
  induction n generalizing b with
  | zero => rfl
  | succ n ih => rw [countDownN, ih, countDown_toNat]; omega

end Sys2Proof.Machine
end

