-- ==== Sys2Proof/Laws/Ops.lean ====
section
/-! SUPPORT. For each shared operation, everything it can do. -/

namespace Sys2Proof.Machine

/-! ### Range checks (R68) -/

theorem checkRange_ok {lo count : Nat} (h : count = 0 ∨ lo + count ≤ 4096) : checkRange lo count = .ok () := by
  rw [checkRange, if_pos]; omega

theorem checkRange_error {lo count : Nat} (h : count ≠ 0 ∧ 4096 < lo + count) :
    checkRange lo count = .error (rangeError (max lo 4096)) := by
  rw [checkRange, if_neg]; omega

/-- `CheckRange` passes, or reports the lowest address above 4095. -/
theorem checkRange_cases (lo count : Nat) :
    ((count = 0 ∨ lo + count ≤ 4096) ∧ checkRange lo count = .ok ()) ∨
    ((count ≠ 0 ∧ 4096 < lo + count) ∧ checkRange lo count = .error (rangeError (max lo 4096))) := by
  by_cases h : count = 0 ∨ lo + count ≤ 4096
  · exact .inl ⟨h, checkRange_ok h⟩
  · exact .inr ⟨by omega, checkRange_error (by omega)⟩

/-- A byte of a block that passed its check can be read. -/
theorem memRead_of_checkRange {m : Memory} {lo count k : Nat} (h : checkRange lo count = .ok ()) (hk : k < count) :
    memRead m (lo + k) = .ok (m.read (lo + k)) := by
  rcases checkRange_cases lo count with ⟨h1, _⟩ | ⟨_, h2⟩
  · rw [memRead, if_neg]; omega
  · rw [h2] at h; cases h

/-- A byte of a block that passed its check can be written. -/
theorem memWrite_of_checkRange {m : Memory} {lo count k : Nat} {x : Byte} (h : checkRange lo count = .ok ())
    (hk : k < count) : memWrite m (lo + k) x = .ok (m.write (lo + k) x) := by
  rcases checkRange_cases lo count with ⟨h1, _⟩ | ⟨_, h2⟩
  · rw [memWrite, if_neg]; omega
  · rw [h2] at h; cases h

/-! ### The fetch (R64) -/

theorem fetch_ok {s : State} (h : s.pc.toNat < 4095) :
    fetch s = .ok (wordOfBytes (s.mem.read s.pc.toNat) (s.mem.read (s.pc.toNat + 1))) := by
  rw [fetch, memReadWord, if_neg (by omega), if_neg (by omega)]

theorem fetch_error {s : State} (h : 4095 ≤ s.pc.toNat) : fetch s = .error (rangeError (max s.pc.toNat 4096)) := by
  rw [fetch, memReadWord]
  split
  · congr 2; omega
  · rw [if_pos (by omega)]; congr 2; omega

/-- The fetch answers a word exactly where `pc` is at most 4094. -/
theorem fetch_ok_iff {s : State} {w : Word} :
    fetch s = .ok w ↔
      s.pc.toNat < 4095 ∧ w = wordOfBytes (s.mem.read s.pc.toNat) (s.mem.read (s.pc.toNat + 1)) := by
  constructor
  · intro h
    by_cases hp : s.pc.toNat < 4095
    · rw [fetch_ok hp] at h; cases h; exact ⟨hp, rfl⟩
    · rw [fetch_error (by omega)] at h; cases h
  · rintro ⟨hp, rfl⟩; exact fetch_ok hp

/-- The fetch depends on the program counter and the memory alone. -/
theorem fetch_congr {s t : State} (hp : t.pc = s.pc) (hm : t.mem = s.mem) : fetch t = fetch s := by
  rw [fetch, fetch, hp, hm]

/-! ### The call stack (R26) -/

/-- `Push` stores at the old depth and deepens by one, or reports depth 16. -/
theorem push_cases (s : State) (w : Word) :
    (∃ h : s.sp.val < 16, push s w =
      .ok { s with stack := s.stack.set s.sp.val w h, sp := ⟨s.sp.val + 1, by omega⟩ }) ∨
    (s.sp.val = 16 ∧ push s w = .error (.stackOverflow 16)) := by
  by_cases h : s.sp.val < 16
  · exact .inl ⟨h, by rw [push, dif_pos h]⟩
  · have h16 : s.sp.val = 16 := by omega
    exact .inr ⟨h16, by rw [push, dif_neg h, h16]; rfl⟩

/-- `Pop` returns the newest entry, or reports depth 0. -/
theorem pop_cases (s : State) :
    (∃ h : 0 < s.sp.val, pop s =
      .ok (s.stack[s.sp.val - 1]'(by omega), { s with sp := ⟨s.sp.val - 1, by omega⟩ })) ∨
    (s.sp.val = 0 ∧ pop s = .error (.stackUnderflow 0)) := by
  by_cases h : s.sp.val = 0
  · exact .inr ⟨h, by rw [pop, dif_pos h, h]; rfl⟩
  · exact .inl ⟨by omega, by rw [pop, dif_neg h]⟩

/-! ### Bulk transfers -/

@[simp] theorem length_regsTo (s : State) (x : RegIx) : (s.regsTo x).length = x.val + 1 := by
  simp [State.regsTo]

theorem getElem_regsTo (s : State) (x : RegIx) (k : Nat) (h : k < (s.regsTo x).length) :
    (s.regsTo x)[k] = s.reg ⟨k, by have := x.isLt; simp at h; omega⟩ := by
  simp [State.regsTo, State.reg]

/-- `V[k]` after loading bytes into the registers from `k0` up. -/
theorem getElem_loadRegs (bytes : List Byte) (v : Vector Byte 16) (k0 k : Nat) (hk : k < 16) :
    (loadRegs v k0 bytes)[k] = if h : k0 ≤ k ∧ k - k0 < bytes.length then bytes[k - k0]'h.2 else v[k] := by
  induction bytes generalizing v k0 with
  | nil => simp [loadRegs]
  | cons b rest ih =>
    rw [loadRegs, ih]
    by_cases h1 : k0 = k
    · subst h1
      rw [dif_neg (by omega), dif_pos (by simp)]
      simp
    · by_cases h2 : k0 + 1 ≤ k ∧ k - (k0 + 1) < rest.length
      · rw [dif_pos h2, dif_pos (by simp only [List.length_cons]; omega)]
        have h4 : k - k0 = k - (k0 + 1) + 1 := by omega
        simp [h4]
      · rw [dif_neg h2, dif_neg (by simp only [List.length_cons]; omega)]
        exact Vector.getElem_setIfInBounds_ne hk h1

/-! ### The key wait (R202) -/

theorem awaitCycle_none {s : State} (h : s.input.key = none) : awaitCycle s = s := by simp [awaitCycle, h]

theorem awaitCycle_some {s : State} {k : Key} (h : s.input.key = some k) :
    awaitCycle s = (s.setReg s.waitx (BitVec.ofNat 8 k.val)).advance.setMode .ready := by
  simp [awaitCycle, h]

/-! ### Placing an instruction (log 5) -/

/-- The word placed is the word fetched. -/
theorem fetch_placeWord {s : State} (h : s.mem.wf = true) (hp : s.pc.toNat < 4095) (w : Word) :
    fetch (s.placeWord w) = .ok w := by
  rw [fetch_ok (by simpa using hp)]
  simp only [State.placeWord_mem, State.placeWord_pc]
  rw [Memory.read_write (Memory.wf_write h (by omega) _), Memory.read_write h,
    Memory.read_write (Memory.wf_write h (by omega) _)]
  simp

end Sys2Proof.Machine
end

