-- ==== Sys2Proof/Laws/Cycle.lean ====
section
/-! SUPPORT. What a cycle and a step can do, once for all. -/

namespace Sys2Proof.Machine

theorem readyCycle_fetchError {s : State} (h : 4095 ≤ s.pc.toNat) :
    readyCycle s = .next (raise (rangeError (max s.pc.toNat 4096)) s) := by
  rw [readyCycle, fetch_error h]

theorem readyCycle_decodeError {s : State} {w : Word} {r : DecodeReject} (hf : fetch s = .ok w)
    (hd : decode w = .error r) : readyCycle s = .next (raise (.decodeError w s.pc) s) := by
  simp [readyCycle, hf, hd]

theorem readyCycle_exec {s : State} {w : Word} {i : Instr} (hf : fetch s = .ok w) (hd : decode w = .ok i) :
    readyCycle s = exec i s := by simp [readyCycle, hf, hd]

/-- A cycle in `Ready` is one of three: the fetch is out of range, the word is illegal, or the decoded
instruction is executed. -/
theorem readyCycle_cases (s : State) :
    (4095 ≤ s.pc.toNat ∧ readyCycle s = .next (raise (rangeError (max s.pc.toNat 4096)) s)) ∨
    (∃ w r, fetch s = .ok w ∧ decode w = .error r ∧ readyCycle s = .next (raise (.decodeError w s.pc) s)) ∨
    (∃ w i, fetch s = .ok w ∧ decode w = .ok i ∧ readyCycle s = exec i s) := by
  by_cases hp : 4095 ≤ s.pc.toNat
  · exact .inl ⟨hp, readyCycle_fetchError hp⟩
  · have hf := fetch_ok (s := s) (by omega)
    cases hd : decode (wordOfBytes (s.mem.read s.pc.toNat) (s.mem.read (s.pc.toNat + 1))) with
    | error r => exact .inr (.inl ⟨_, r, hf, hd, readyCycle_decodeError hf hd⟩)
    | ok i => exact .inr (.inr ⟨_, i, hf, hd, readyCycle_exec hf hd⟩)

/-- A step is its cycle in the state the boundary's ticks leave, and then the outside presents anew. -/
theorem step_eq (s : State) : step s = afterCycle (cycle s.deliverTicks) := rfl

@[simp] theorem afterCycle_next (t : State) : afterCycle (.next t) = .next t.presentNext := rfl

/-- A step that answers a next state comes from a cycle that does. -/
theorem afterCycle_eq_next {r : Result} {t : State} (h : afterCycle r = .next t) :
    ∃ u, r = .next u ∧ t = u.presentNext := by
  cases r with
  | next u => exact ⟨u, rfl, by simpa using h.symm⟩
  | fault r => cases h
  | refused r => cases h

/-- Everything a step can do, by the run state it starts in. -/
theorem step_cases {s t : State} (h : step s = .next t) :
    ∃ u, t = u.presentNext ∧
      ((s.mode = .halted ∧ u = s.deliverTicks) ∨
       (s.mode = .awaitingKey ∧ u = awaitCycle s.deliverTicks) ∨
       (s.mode = .ready ∧ readyCycle s.deliverTicks = .next u)) := by
  obtain ⟨u, hu, rfl⟩ := afterCycle_eq_next h
  refine ⟨u, rfl, ?_⟩
  unfold cycle at hu
  rw [State.deliverTicks_mode] at hu
  cases hm : s.mode with
  | halted => rw [hm] at hu; exact .inl ⟨rfl, by simpa using hu.symm⟩
  | awaitingKey => rw [hm] at hu; exact .inr (.inl ⟨rfl, by simpa using hu.symm⟩)
  | ready => rw [hm] at hu; exact .inr (.inr ⟨rfl, hu⟩)

theorem step_halted {s : State} (h : s.mode = .halted) : step s = .next s.deliverTicks.presentNext := by
  simp [step_eq, cycle, h]

theorem step_awaiting {s : State} (h : s.mode = .awaitingKey) :
    step s = .next (awaitCycle s.deliverTicks).presentNext := by simp [step_eq, cycle, h]

theorem step_ready {s : State} (h : s.mode = .ready) : step s = afterCycle (readyCycle s.deliverTicks) := by
  simp [step_eq, cycle, h]

@[simp] theorem fetch_deliverTicks (s : State) : fetch s.deliverTicks = fetch s := rfl

@[simp] theorem fetch_presentNext (s : State) : fetch s.presentNext = fetch s :=
  fetch_congr (by simp) (by simp)

/-- A run of `k + 1` steps is one step and a run of `k`. -/
theorem run_succ {s t : State} (k : Nat) (h : step s = .next t) : core.run (k + 1) s = core.run k t := by
  have h' : core.step s = .next t := h
  simp only [Host.Core.run, h']

end Sys2Proof.Machine
end

