-- ==== Sys2Proof/Laws/Exec.lean ====
section
/-! SUPPORT. The six instructions that check something before they act (R222): what `exec` answers when the check
passes and when it does not. Every other meaning is one equation, true by rfl. -/

namespace Sys2Proof.Machine

theorem pop_ok {s : State} (h : 0 < s.sp.val) :
    pop s = .ok (s.stack[s.sp.val - 1]'(by omega), { s with sp := ⟨s.sp.val - 1, by omega⟩ }) := by
  rw [pop, dif_neg (by omega)]

theorem pop_underflow {s : State} (h : s.sp.val = 0) : pop s = .error (.stackUnderflow 0) := by
  rw [pop, dif_pos h, h]; rfl

theorem push_ok {s : State} (w : Word) (h : s.sp.val < 16) :
    push s w = .ok { s with stack := s.stack.set s.sp.val w h, sp := ⟨s.sp.val + 1, by omega⟩ } := by
  rw [push, dif_pos h]

theorem push_overflow {s : State} (w : Word) (h : s.sp.val = 16) : push s w = .error (.stackOverflow 16) := by
  rw [push, dif_neg (by omega), h]; rfl

theorem exec_ret_ok {s : State} (h : 0 < s.sp.val) :
    exec .ret s =
      .next (({ s with sp := ⟨s.sp.val - 1, by omega⟩ } : State).setPc (s.stack[s.sp.val - 1]'(by omega))) := by
  simp only [exec, execRet, pop_ok h]

theorem exec_ret_underflow {s : State} (h : s.sp.val = 0) :
    exec .ret s = .next (raise (.stackUnderflow 0) s) := by
  simp only [exec, execRet, pop_underflow h]

theorem exec_call_ok {s : State} (nnn : BitVec 12) (h : s.sp.val < 16) :
    exec (.call nnn) s =
      .next (({ s with stack := s.stack.set s.sp.val s.npc h, sp := ⟨s.sp.val + 1, by omega⟩ } : State).setPc
        (addrOperand nnn)) := by
  simp only [exec, execCall, push_ok s.npc h]

theorem exec_call_overflow {s : State} (nnn : BitVec 12) (h : s.sp.val = 16) :
    exec (.call nnn) s = .next (raise (.stackOverflow 16) s) := by
  simp only [exec, execCall, push_overflow s.npc h]

theorem exec_drw_ok {s : State} (x y : RegIx) {n : Nat} (h : n = 0 ∨ s.effAddr 0 + n ≤ 4096) :
    exec (.drw x y n) s =
      .next ((s.setFb (drawSprite (s.reg x).toNat (s.reg y).toNat (s.mem.readMany (s.effAddr 0) n) s.fb).1).setReg 15
        (flagByte (drawSprite (s.reg x).toNat (s.reg y).toNat (s.mem.readMany (s.effAddr 0) n) s.fb).2)).advance := by
  simp only [exec, execDrw, checkRange_ok h]

theorem exec_drw_error {s : State} (x y : RegIx) {n : Nat} (h : n ≠ 0 ∧ 4096 < s.effAddr 0 + n) :
    exec (.drw x y n) s = .next (raise (rangeError (max (s.effAddr 0) 4096)) s) := by
  simp only [exec, execDrw, checkRange_error h]

theorem exec_ldBVx_ok {s : State} (x : RegIx) (h : s.effAddr 0 + 3 ≤ 4096) :
    exec (.ldBVx x) s = .next (s.setMem (s.mem.writeMany (s.effAddr 0) (bcdDigits (s.reg x)))).advance := by
  simp only [exec, execLdBVx, checkRange_ok (.inr h)]

theorem exec_ldBVx_error {s : State} (x : RegIx) (h : 4096 < s.effAddr 0 + 3) :
    exec (.ldBVx x) s = .next (raise (rangeError (max (s.effAddr 0) 4096)) s) := by
  simp only [exec, execLdBVx, checkRange_error ⟨by omega, h⟩]

theorem exec_ldMemVx_ok {s : State} (x : RegIx) (h : s.effAddr 0 + (x.val + 1) ≤ 4096) :
    exec (.ldMemVx x) s =
      .next ((s.setMem (s.mem.writeMany (s.effAddr 0) (s.regsTo x))).setI (s.iAfterBulk x)).advance := by
  simp only [exec, execLdMemVx, checkRange_ok (.inr h)]

theorem exec_ldMemVx_error {s : State} (x : RegIx) (h : 4096 < s.effAddr 0 + (x.val + 1)) :
    exec (.ldMemVx x) s = .next (raise (rangeError (max (s.effAddr 0) 4096)) s) := by
  simp only [exec, execLdMemVx, checkRange_error ⟨Nat.succ_ne_zero _, h⟩]

theorem exec_ldVxMem_ok {s : State} (x : RegIx) (h : s.effAddr 0 + (x.val + 1) ≤ 4096) :
    exec (.ldVxMem x) s =
      .next ((s.setV (loadRegs s.v 0 (s.mem.readMany (s.effAddr 0) (x.val + 1)))).setI (s.iAfterBulk x)).advance := by
  simp only [exec, execLdVxMem, checkRange_ok (.inr h)]

theorem exec_ldVxMem_error {s : State} (x : RegIx) (h : 4096 < s.effAddr 0 + (x.val + 1)) :
    exec (.ldVxMem x) s = .next (raise (rangeError (max (s.effAddr 0) 4096)) s) := by
  simp only [exec, execLdVxMem, checkRange_error ⟨Nat.succ_ne_zero _, h⟩]

/-- How an instruction leaves `MODE` and `DT`: it raises, it stays `Ready` (and sets `DT` only if it is
`LD DT, Vx`), or it enters the key wait. -/
theorem exec_cases {i : Instr} {s t : State} (h : exec i s = .next t) (hm : s.mode = .ready) :
    (∃ e, t = raise e s) ∨ (t.mode = .ready ∧ (t.dt = s.dt ∨ ∃ x, i = .ldDTVx x)) ∨
    (∃ x, i = .ldVxK x ∧ t = s.enterWait x) := by
  cases i
  case ret =>
    rcases pop_cases s with ⟨_, h2⟩ | ⟨_, h2⟩ <;> simp only [exec, execRet, h2] at h <;> cases h
    exacts [.inr (.inl ⟨hm, .inl rfl⟩), .inl ⟨_, rfl⟩]
  case call nnn =>
    rcases push_cases s s.npc with ⟨_, h2⟩ | ⟨_, h2⟩ <;> simp only [exec, execCall, h2] at h <;> cases h
    exacts [.inr (.inl ⟨hm, .inl rfl⟩), .inl ⟨_, rfl⟩]
  case drw x y n =>
    rcases checkRange_cases (s.effAddr 0) n with ⟨_, h2⟩ | ⟨_, h2⟩ <;> simp only [exec, execDrw, h2] at h <;> cases h
    exacts [.inr (.inl ⟨hm, .inl rfl⟩), .inl ⟨_, rfl⟩]
  case ldBVx x =>
    rcases checkRange_cases (s.effAddr 0) 3 with ⟨_, h2⟩ | ⟨_, h2⟩ <;> simp only [exec, execLdBVx, h2] at h <;> cases h
    exacts [.inr (.inl ⟨hm, .inl rfl⟩), .inl ⟨_, rfl⟩]
  case ldMemVx x =>
    rcases checkRange_cases (s.effAddr 0) (x.val + 1) with ⟨_, h2⟩ | ⟨_, h2⟩ <;>
      simp only [exec, execLdMemVx, h2] at h <;> cases h
    exacts [.inr (.inl ⟨hm, .inl rfl⟩), .inl ⟨_, rfl⟩]
  case ldVxMem x =>
    rcases checkRange_cases (s.effAddr 0) (x.val + 1) with ⟨_, h2⟩ | ⟨_, h2⟩ <;>
      simp only [exec, execLdVxMem, h2] at h <;> cases h
    exacts [.inr (.inl ⟨hm, .inl rfl⟩), .inl ⟨_, rfl⟩]
  all_goals cases h
  case ldVxK x => exact .inr (.inr ⟨x, rfl, rfl⟩)
  all_goals exact .inr (.inl ⟨hm, by first | exact .inl rfl | exact .inr ⟨_, rfl⟩⟩)

end Sys2Proof.Machine
end

