-- ==== Sys2Proof/Laws/HostPort.lean ====
section
/-! SUPPORT. What `load` can answer (R73). -/

namespace Sys2Proof.Machine

theorem load_ok {s : State} {bytes : List Byte} {base : Nat} (hs : s.started = false)
    (h : base + bytes.length ≤ 4096) : s.load bytes base = .loaded (s.setMem (s.mem.writeMany base bytes)) := by
  rw [State.load, hs, if_neg (by simp), if_neg (by simp only [Config.memSize]; omega)]

theorem load_outOfRange {s : State} {bytes : List Byte} {base : Nat} (hs : s.started = false)
    (h : base + bytes.length > 4096) : s.load bytes base = .outOfRange (max base 4096) := by
  rw [State.load, hs, if_neg (by simp), if_pos (by simp only [Config.memSize]; omega)]

theorem load_notPermitted {s : State} {bytes : List Byte} {base : Nat} (hs : s.started = true) :
    s.load bytes base = .notPermitted := by rw [State.load, if_pos hs]

end Sys2Proof.Machine
end

