-- ==== Sys2Proof/Laws/PerInstr.lean ====
section
/-! SUPPORT. Statements about every instruction as syntax, one lemma per constructor. -/

namespace Sys2Proof.Laws.EncodeLegal

/-- The word of a well-formed instruction is in no row of the table of illegal words (R96). -/
def Statement (i : Instr) : Prop := i.wellFormed = true → legalWord (encode i) = true

/-- A word of a family in which every word is legal. -/
theorem legal_of_family {w : Word} (h : w.toNat / 4096 ∈ [1, 2, 3, 4, 6, 7, 10, 11, 12, 13]) : legalWord w = true := by
  simp only [List.mem_cons, List.not_mem_nil, or_false] at h
  rcases h with h | h | h | h | h | h | h | h | h | h <;> simp [legalWord, h]

/-- A word of family 5 or 9 ending in digit 0. -/
theorem legal_of_digit {w : Word} (h : w.toNat / 4096 ∈ [5, 9]) (hn : w.toNat % 16 = 0) : legalWord w = true := by
  simp only [List.mem_cons, List.not_mem_nil, or_false] at h
  rcases h with h | h <;> simp [legalWord, h, hn]

/-- A word of family 8 ending in an assigned digit. -/
theorem legal_of_family8 {w : Word} (h : w.toNat / 4096 = 8) (hn : w.toNat % 16 ∈ [0, 1, 2, 3, 4, 5, 6, 7, 14]) :
    legalWord w = true := by
  simp only [List.mem_cons, List.not_mem_nil, or_false] at hn
  rcases hn with hn | hn | hn | hn | hn | hn | hn | hn | hn <;> simp [legalWord, h, hn]

/-- A word of family E ending in an assigned byte. -/
theorem legal_of_familyE {w : Word} (h : w.toNat / 4096 = 14) (hk : w.toNat % 256 ∈ [0x9E, 0xA1]) :
    legalWord w = true := by
  simp only [List.mem_cons, List.not_mem_nil, or_false] at hk
  rcases hk with hk | hk <;> simp [legalWord, h, hk]

/-- A word of family F ending in an assigned byte. -/
theorem legal_of_familyF {w : Word} (h : w.toNat / 4096 = 15)
    (hk : w.toNat % 256 ∈ [0x07, 0x0A, 0x15, 0x18, 0x1E, 0x29, 0x33, 0x55, 0x65]) : legalWord w = true := by
  simp only [List.mem_cons, List.not_mem_nil, or_false] at hk
  rcases hk with hk | hk | hk | hk | hk | hk | hk | hk | hk <;> simp [legalWord, h, hk]

theorem formatA_family (f : BitVec 4) (nnn : BitVec 12) : (formatA f nnn).toNat / 4096 = f.toNat := by
  have := nnn.isLt; rw [formatA_toNat]; omega

theorem formatI_family (f : BitVec 4) (x : RegIx) (kk : Byte) : (formatI f x kk).toNat / 4096 = f.toNat :=
  formatA_family f _

theorem formatI_byte (f : BitVec 4) (x : RegIx) (kk : Byte) : (formatI f x kk).toNat % 256 = kk.toNat := by
  have := kk.isLt; rw [formatI_toNat]; omega

theorem formatR_family (f : BitVec 4) (x y : RegIx) (n : BitVec 4) : (formatR f x y n).toNat / 4096 = f.toNat :=
  formatI_family f x _

theorem formatR_digit (f : BitVec 4) (x y : RegIx) (n : BitVec 4) : (formatR f x y n).toNat % 16 = n.toNat := by
  have := n.isLt; rw [formatR_toNat]; omega

theorem cls : Statement .cls := fun _ => by decide
theorem ret : Statement .ret := fun _ => by decide
theorem jp (nnn : BitVec 12) : Statement (.jp nnn) := fun _ => legal_of_family (by simp [encode, formatA_family])
theorem call (nnn : BitVec 12) : Statement (.call nnn) := fun _ => legal_of_family (by simp [encode, formatA_family])
theorem seVxKk (x : RegIx) (kk : Byte) : Statement (.seVxKk x kk) :=
  fun _ => legal_of_family (by simp [encode, formatI_family])
theorem sneVxKk (x : RegIx) (kk : Byte) : Statement (.sneVxKk x kk) :=
  fun _ => legal_of_family (by simp [encode, formatI_family])
theorem seVxVy (x y : RegIx) : Statement (.seVxVy x y) :=
  fun _ => legal_of_digit (by simp [encode, formatR_family]) (by simp [encode, formatR_digit])
theorem ldVxKk (x : RegIx) (kk : Byte) : Statement (.ldVxKk x kk) :=
  fun _ => legal_of_family (by simp [encode, formatI_family])
theorem addVxKk (x : RegIx) (kk : Byte) : Statement (.addVxKk x kk) :=
  fun _ => legal_of_family (by simp [encode, formatI_family])
theorem ldVxVy (x y : RegIx) : Statement (.ldVxVy x y) :=
  fun _ => legal_of_family8 (by simp [encode, formatR_family]) (by simp [encode, formatR_digit])
theorem orVxVy (x y : RegIx) : Statement (.orVxVy x y) :=
  fun _ => legal_of_family8 (by simp [encode, formatR_family]) (by simp [encode, formatR_digit])
theorem andVxVy (x y : RegIx) : Statement (.andVxVy x y) :=
  fun _ => legal_of_family8 (by simp [encode, formatR_family]) (by simp [encode, formatR_digit])
theorem xorVxVy (x y : RegIx) : Statement (.xorVxVy x y) :=
  fun _ => legal_of_family8 (by simp [encode, formatR_family]) (by simp [encode, formatR_digit])
theorem addVxVy (x y : RegIx) : Statement (.addVxVy x y) :=
  fun _ => legal_of_family8 (by simp [encode, formatR_family]) (by simp [encode, formatR_digit])
theorem subVxVy (x y : RegIx) : Statement (.subVxVy x y) :=
  fun _ => legal_of_family8 (by simp [encode, formatR_family]) (by simp [encode, formatR_digit])
theorem shrVx (x y : RegIx) : Statement (.shrVx x y) :=
  fun _ => legal_of_family8 (by simp [encode, formatR_family]) (by simp [encode, formatR_digit])
theorem subnVxVy (x y : RegIx) : Statement (.subnVxVy x y) :=
  fun _ => legal_of_family8 (by simp [encode, formatR_family]) (by simp [encode, formatR_digit])
theorem shlVx (x y : RegIx) : Statement (.shlVx x y) :=
  fun _ => legal_of_family8 (by simp [encode, formatR_family]) (by simp [encode, formatR_digit])
theorem sneVxVy (x y : RegIx) : Statement (.sneVxVy x y) :=
  fun _ => legal_of_digit (by simp [encode, formatR_family]) (by simp [encode, formatR_digit])
theorem ldI (nnn : BitVec 12) : Statement (.ldI nnn) := fun _ => legal_of_family (by simp [encode, formatA_family])
theorem jpV0 (nnn : BitVec 12) : Statement (.jpV0 nnn) := fun _ => legal_of_family (by simp [encode, formatA_family])
theorem rndVxKk (x : RegIx) (kk : Byte) : Statement (.rndVxKk x kk) :=
  fun _ => legal_of_family (by simp [encode, formatI_family])
theorem drw (x y : RegIx) (n : Nat) : Statement (.drw x y n) :=
  fun _ => legal_of_family (by simp [encode, formatR_family])
theorem skpVx (x : RegIx) : Statement (.skpVx x) :=
  fun _ => legal_of_familyE (by simp [encode, formatI_family]) (by simp [encode, formatI_byte])
theorem sknpVx (x : RegIx) : Statement (.sknpVx x) :=
  fun _ => legal_of_familyE (by simp [encode, formatI_family]) (by simp [encode, formatI_byte])
theorem ldVxDT (x : RegIx) : Statement (.ldVxDT x) :=
  fun _ => legal_of_familyF (by simp [encode, formatI_family]) (by simp [encode, formatI_byte])
theorem ldVxK (x : RegIx) : Statement (.ldVxK x) :=
  fun _ => legal_of_familyF (by simp [encode, formatI_family]) (by simp [encode, formatI_byte])
theorem ldDTVx (x : RegIx) : Statement (.ldDTVx x) :=
  fun _ => legal_of_familyF (by simp [encode, formatI_family]) (by simp [encode, formatI_byte])
theorem ldSTVx (x : RegIx) : Statement (.ldSTVx x) :=
  fun _ => legal_of_familyF (by simp [encode, formatI_family]) (by simp [encode, formatI_byte])
theorem addIVx (x : RegIx) : Statement (.addIVx x) :=
  fun _ => legal_of_familyF (by simp [encode, formatI_family]) (by simp [encode, formatI_byte])
theorem ldFVx (x : RegIx) : Statement (.ldFVx x) :=
  fun _ => legal_of_familyF (by simp [encode, formatI_family]) (by simp [encode, formatI_byte])
theorem ldBVx (x : RegIx) : Statement (.ldBVx x) :=
  fun _ => legal_of_familyF (by simp [encode, formatI_family]) (by simp [encode, formatI_byte])
theorem ldMemVx (x : RegIx) : Statement (.ldMemVx x) :=
  fun _ => legal_of_familyF (by simp [encode, formatI_family]) (by simp [encode, formatI_byte])
theorem ldVxMem (x : RegIx) : Statement (.ldVxMem x) :=
  fun _ => legal_of_familyF (by simp [encode, formatI_family]) (by simp [encode, formatI_byte])

end Sys2Proof.Laws.EncodeLegal
end

