-- ==== Sys2Proof/Laws/Video.lean ====
section
/-! SUPPORT. The display buffer's laws and everything `DrawSprite` does, pixel by pixel (R191). -/

namespace Sys2Proof.Machine

/-- Two buffers with equal pixels are equal. -/
theorem Display.ext_pixel {a b : Display} (h : ∀ r c, a.pixel r c = b.pixel r c) : a = b := by
  apply Vector.ext; intro r hr
  apply Vector.ext; intro c hc
  exact h ⟨r, hr⟩ ⟨c, hc⟩

@[simp] theorem Display.pixel_clear (r : Fin 32) (c : Fin 64) : Display.clear.pixel r c = false := by
  simp [Display.clear, Display.pixel]

theorem Display.pixel_toggle (fb : Display) (r r' : Fin 32) (c c' : Fin 64) :
    (fb.toggle r c).pixel r' c' = ((fb.pixel r' c') ^^ decide (r' = r ∧ c' = c)) := by
  simp only [Display.toggle, Display.pixel, Fin.getElem_fin, Vector.getElem_set, Fin.ext_iff]
  by_cases hr : r.val = r'.val
  · have hr' : r = r' := Fin.ext hr
    subst hr'
    by_cases hc : c.val = c'.val
    · have hc' : c = c' := Fin.ext hc
      subst hc'
      simp
    · simp [hc, Ne.symm hc]
  · simp [hr, Ne.symm hr]

/-! ### A drawing, as the set of places it plots

`DrawnBy P d d'` says that `d'` is `d` with each place in `P` plotted once: its pixel is flipped, and the collision
is noted where the pixel was set. -/

def DrawnBy (P : Fin 32 → Fin 64 → Prop) (d d' : Drawing) : Prop :=
  (∀ r c, (P r c → d'.1.pixel r c = !d.1.pixel r c) ∧ (¬ P r c → d'.1.pixel r c = d.1.pixel r c)) ∧
  (d'.2 = true ↔ d.2 = true ∨ ∃ r c, P r c ∧ d.1.pixel r c = true)

theorem DrawnBy.none (d : Drawing) : DrawnBy (fun _ _ => False) d d := by
  refine ⟨fun r c => ⟨False.elim, fun _ => rfl⟩, ?_⟩
  simp

/-- Drawings at disjoint places join. -/
theorem DrawnBy.trans {P Q : Fin 32 → Fin 64 → Prop} {d d' d'' : Drawing} (h : DrawnBy P d d')
    (h' : DrawnBy Q d' d'') (disj : ∀ r c, P r c → ¬ Q r c) : DrawnBy (fun r c => P r c ∨ Q r c) d d'' := by
  obtain ⟨hp, hc⟩ := h
  obtain ⟨hp', hc'⟩ := h'
  refine ⟨fun r c => ⟨?_, ?_⟩, ?_⟩
  · rintro (h1 | h1)
    · rw [(hp' r c).2 (disj r c h1), (hp r c).1 h1]
    · rw [(hp' r c).1 h1, (hp r c).2 (fun h2 => disj r c h2 h1)]
  · intro h1
    rw [(hp' r c).2 (fun h2 => h1 (.inr h2)), (hp r c).2 (fun h2 => h1 (.inl h2))]
  · rw [hc', hc]
    constructor
    · rintro ((h1 | ⟨r, c, h1, h2⟩) | ⟨r, c, h1, h2⟩)
      · exact .inl h1
      · exact .inr ⟨r, c, .inl h1, h2⟩
      · rw [(hp r c).2 (fun h3 => disj r c h3 h1)] at h2
        exact .inr ⟨r, c, .inr h1, h2⟩
    · rintro (h1 | ⟨r, c, h1 | h1, h2⟩)
      · exact .inl (.inl h1)
      · exact .inl (.inr ⟨r, c, h1, h2⟩)
      · refine .inr ⟨r, c, h1, ?_⟩
        rw [(hp r c).2 (fun h3 => disj r c h3 h1)]
        exact h2

theorem DrawnBy.congr {P Q : Fin 32 → Fin 64 → Prop} {d d' : Drawing} (h : DrawnBy P d d')
    (he : ∀ r c, P r c ↔ Q r c) : DrawnBy Q d d' := by
  have : P = Q := funext fun r => funext fun c => propext (he r c)
  rwa [← this]

theorem plot_drawnBy (d : Drawing) (r0 : Fin 32) (c0 : Fin 64) :
    DrawnBy (fun r c => r = r0 ∧ c = c0) d (plot d r0 c0) := by
  refine ⟨fun r c => ⟨?_, ?_⟩, ?_⟩
  · rintro ⟨rfl, rfl⟩; simp [plot, Display.pixel_toggle]
  · intro h; simp [plot, Display.pixel_toggle, h]
  · simp only [plot, Bool.or_eq_true]
    constructor
    · rintro (h | h)
      · exact .inl h
      · exact .inr ⟨r0, c0, ⟨rfl, rfl⟩, h⟩
    · rintro (h | ⟨r, c, ⟨rfl, rfl⟩, h⟩)
      · exact .inl h
      · exact .inr h

theorem drawBit_drawnBy (x0 : Nat) (py : Fin 32) (row : Byte) (d : Drawing) (j : Nat) :
    DrawnBy (fun r c => r = py ∧ (x0 + j) % 64 = c.val ∧ row.getLsbD (7 - j) = true) d (drawBit x0 py row d j) := by
  unfold drawBit
  split
  · next h =>
    refine (plot_drawnBy d py (wrapCol (x0 + j))).congr fun r c => ?_
    simp only [wrapCol, Fin.ext_iff, h, and_true, eq_comm]
  · next h =>
    refine (DrawnBy.none d).congr fun r c => ?_
    simp [h]

theorem foldl_drawBit_drawnBy (x0 : Nat) (py : Fin 32) (row : Byte) (d : Drawing) (n : Nat) (hn : n ≤ 64) :
    DrawnBy (fun r c => r = py ∧ ∃ j < n, (x0 + j) % 64 = c.val ∧ row.getLsbD (7 - j) = true) d
      ((List.range n).foldl (drawBit x0 py row) d) := by
  induction n with
  | zero => exact (DrawnBy.none d).congr fun r c => by simp
  | succ n ih =>
    rw [List.range_succ, List.foldl_append]
    refine ((ih (by omega)).trans (drawBit_drawnBy x0 py row _ n) ?_).congr fun r c => ?_
    · rintro r c ⟨-, j, hj, h1, -⟩ ⟨-, h2, -⟩
      omega
    · constructor
      · rintro (⟨h, j, hj, h'⟩ | ⟨h, h'⟩)
        · exact ⟨h, j, by omega, h'⟩
        · exact ⟨h, n, by omega, h'⟩
      · rintro ⟨h, j, hj, h'⟩
        by_cases hjn : j = n
        · subst hjn; exact .inr ⟨h, h'⟩
        · exact .inl ⟨h, j, by omega, h'⟩

theorem drawRow_drawnBy (x0 : Nat) (py : Fin 32) (row : Byte) (d : Drawing) :
    DrawnBy (fun r c => r = py ∧ ∃ j < 8, (x0 + j) % 64 = c.val ∧ row.getLsbD (7 - j) = true) d
      (drawRow x0 py row d) := foldl_drawBit_drawnBy x0 py row d 8 (by omega)

theorem drawRows_drawnBy (x0 : Nat) (rows : List Byte) (y0 : Nat) (d : Drawing) (hn : rows.length ≤ 32) :
    DrawnBy (fun r c => ∃ k j, ∃ h : k < rows.length, j < 8 ∧ (y0 + k) % 32 = r.val ∧ (x0 + j) % 64 = c.val ∧
        (rows[k]'h).getLsbD (7 - j) = true) d (drawRows x0 y0 rows d) := by
  induction rows generalizing y0 d with
  | nil => exact (DrawnBy.none d).congr fun r c => by simp
  | cons row rest ih =>
    simp only [List.length_cons] at hn
    refine ((drawRow_drawnBy x0 (wrapRow y0) row d).trans (ih (y0 + 1) _ (by omega)) ?_).congr fun r c => ?_
    · rintro r c ⟨h1, -⟩ ⟨k, j, hk, -, h2, -⟩
      have h3 : r.val = y0 % 32 := by rw [h1]; rfl
      omega
    · constructor
      · rintro (⟨h, j, hj, h'⟩ | ⟨k, j, hk, hj, h1, h2, h3⟩)
        · exact ⟨0, j, by simp, hj, by rw [h]; rfl, h'⟩
        · exact ⟨k + 1, j, by simp only [List.length_cons]; omega, hj, by rw [← h1]; congr 1; omega, h2, by simpa using h3⟩
      · rintro ⟨k, j, hk, hj, h1, h2, h3⟩
        cases k with
        | zero => exact .inl ⟨Fin.ext h1.symm, j, hj, h2, h3⟩
        | succ k =>
          simp only [List.length_cons] at hk
          exact .inr ⟨k, j, by omega, hj, by rw [← h1]; congr 1; omega, h2, by simpa using h3⟩

/-- Everything `DrawSprite` does (R191): each place a set bit falls on is flipped, all others stay, and the
collision tells whether a flipped place was set. Up to 32 rows, no place is hit twice. -/
theorem drawSprite_drawnBy (x0 y0 : Nat) (rows : List Byte) (fb : Display) (hn : rows.length ≤ 32) :
    DrawnBy (fun r c => ∃ k j, ∃ h : k < rows.length, j < 8 ∧ (y0 + k) % 32 = r.val ∧ (x0 + j) % 64 = c.val ∧
        (rows[k]'h).getLsbD (7 - j) = true) (fb, false) (drawSprite x0 y0 rows fb) :=
  drawRows_drawnBy x0 rows y0 (fb, false) hn

end Sys2Proof.Machine
end

