-- ==== Sys2Proof/Tests/Slice0.lean ====
section
/-! SUPPORT. The model's own tests: the checks of `WellFormed`, one word of every constructor written out from the
opcode map of R95, at most two single cycles per instruction with the expected values of spec/95_test_vectors.md
(the vector is named in the comment), and witnesses of the statements' hypotheses. -/

namespace Sys2Proof.Tests

open Sys2Proof.Machine

/-! ### Well-formedness (R93, R96) -/

/-- R93: a row count of 16 does not fit its field. -/
theorem test_wellFormed_refuses_sixteen_rows : (Instr.drw 1 2 16).wellFormed = false := by decide

theorem test_wellFormed_admits_fifteen_rows : (Instr.drw 15 15 15).wellFormed = true := by decide

/-- R96, an illegal word of each row of its table (K15 to K23, T16, T20, K9). -/
theorem test_legalWord_refuses : ([0x0000, 0x00E1, 0x0123, 0x5121, 0x8128, 0x812F, 0x912F, 0xE000, 0xE39F,
    0xF000, 0xF175, 0xFFFF] : List Word).any legalWord = false := by decide

/-- The "nearest accepted neighbours" of section 2.6. -/
theorem test_legalWord_admits : ([0x00E0, 0x00EE, 0x8127, 0x812E, 0xE09E, 0xF165, 0xF007, 0x5120,
    0x9120] : List Word).all legalWord = true := by decide

/-! ### Decoding, word by word (R95) -/

theorem test_decode_rejects_by_family :
    decode 0x0000 = .error .family0 ∧ decode 0x5121 = .error .family5 ∧ decode 0x8128 = .error .family8 ∧
    decode 0x912F = .error .family9 ∧ decode 0xE39F = .error .familyE ∧ decode 0xF175 = .error .familyF ∧
    decodeBytes [0x00] = .error .truncated := by decide

theorem test_decode_control :
    decode 0b0000000011101110 = .ok .ret ∧ decode 0b0001001000110100 = .ok (.jp 0x234) ∧
    decode 0b0010001100000000 = .ok (.call 0x300) ∧ decode 0b0011101000000101 = .ok (.seVxKk 10 5) ∧
    decode 0b0100101000000101 = .ok (.sneVxKk 10 5) ∧ decode 0b0101000100100000 = .ok (.seVxVy 1 2) ∧
    decode 0b1001000100100000 = .ok (.sneVxVy 1 2) ∧ decode 0b1011001100000000 = .ok (.jpV0 0x300) := by decide

theorem test_decode_arithmetic :
    decode 0b0110101000101100 = .ok (.ldVxKk 10 0x2C) ∧ decode 0b0111000000000101 = .ok (.addVxKk 0 5) ∧
    decode 0b1000000100100000 = .ok (.ldVxVy 1 2) ∧ decode 0b1000000100100001 = .ok (.orVxVy 1 2) ∧
    decode 0b1000000100100010 = .ok (.andVxVy 1 2) ∧ decode 0b1000000100100011 = .ok (.xorVxVy 1 2) ∧
    decode 0b1000000100100100 = .ok (.addVxVy 1 2) ∧ decode 0b1000000100100101 = .ok (.subVxVy 1 2) ∧
    decode 0b1000000100100110 = .ok (.shrVx 1 2) ∧ decode 0b1000000100100111 = .ok (.subnVxVy 1 2) ∧
    decode 0b1000000100101110 = .ok (.shlVx 1 2) ∧ decode 0b1100001100001111 = .ok (.rndVxKk 3 15) := by decide

theorem test_decode_memory_display :
    decode 0b1010001000101010 = .ok (.ldI 0x22A) ∧ decode 0b1111001000011110 = .ok (.addIVx 2) ∧
    decode 0b1111001100101001 = .ok (.ldFVx 3) ∧ decode 0b1111010100110011 = .ok (.ldBVx 5) ∧
    decode 0b1111001001010101 = .ok (.ldMemVx 2) ∧ decode 0b1111000101100101 = .ok (.ldVxMem 1) ∧
    decode 0b0000000011100000 = .ok .cls ∧ decode 0b1101000100100101 = .ok (.drw 1 2 5) := by decide

theorem test_decode_keypad_timers :
    decode 0b1110001110011110 = .ok (.skpVx 3) ∧ decode 0b1110001110100001 = .ok (.sknpVx 3) ∧
    decode 0b1111001000000111 = .ok (.ldVxDT 2) ∧ decode 0b1111010000001010 = .ok (.ldVxK 4) ∧
    decode 0b1111001000010101 = .ok (.ldDTVx 2) ∧ decode 0b1111001100011000 = .ok (.ldSTVx 3) := by decide

/-- The table's numbering: the row's bits, in the one word that every instruction is. -/
theorem test_decodeTableWord : decodeTableWord 16 0xF165 = some (.ldVxMem 1) ∧ decodeTableWord 16 0 = none := by
  decide

/-- R99: a shift's second operand is written only where its field is not 0. -/
theorem test_asm : asm (.ldVxKk 10 0x2C) = "LD VA, 0x2C" ∧ asm (.shrVx 1 0) = "SHR V1" ∧
    asm (.shrVx 1 2) = "SHR V1, V2" ∧ asm (.drw 1 2 15) = "DRW V1, V2, 15" := by decide

/-! ### Building small states -/

/-- The reset state with some registers set. -/
def regs (l : List (RegIx × Byte)) : State := l.foldl (fun s p => s.setReg p.1 p.2) State.reset

/-- The same with `I` and some bytes in memory. -/
def atI (i : Word) (bytes : List Byte) (l : List (RegIx × Byte)) : State :=
  ((regs l).setI i).setMem (Memory.writeMany [] i.toNat bytes)

/-- A key at the port. -/
def withKey (k : Option Key) (s : State) : State := { s with input := { s.input with key := k } }

/-- A byte at the port. -/
def withRand (b : Byte) (s : State) : State := { s with input := { s.input with rand := b } }

/-- A stack of the given depth whose slots all hold 0x0204. -/
def withDepth (d : Fin 17) (s : State) : State := { s with stack := Vector.replicate 16 0x0204, sp := d }

/-- One quiet presentation to come, so that a step evaluates. -/
def quiet (s : State) : State := { s with script := [{ key := none, rand := 0, ticks := 0 }] }

/-- The state an answer leads to, if there is one. -/
def nextOf : Result → Option State
  | .next t => some t
  | _ => none

/-- One cycle with the word `w` at `pc`; `f` of the state after it. -/
def after {α : Type} (w : Word) (s : State) (f : State → α) : Option α := (nextOf (cycle (s.placeWord w))).map f

/-- `pc`, `MODE` and `ERR`. -/
def whereAt (s : State) : Word × Mode × Option FatalError := (s.pc, s.mode, s.err)

/-- How many pixels are set. -/
def lit (s : State) : Nat := (s.fb.toList.map fun r => (r.toList.filter id).length).sum

/-! ### One cycle: control flow -/

/-- T1, T2. -/
theorem test_ret : after 0x00EE ((withDepth 1 State.reset).setPc 0x300) (fun t => (t.pc, t.sp)) = some (0x204, 0) ∧
    after 0x00EE (State.reset.setPc 0x300) whereAt = some (0x300, .halted, some (.stackUnderflow 0)) := by decide

/-- T3, T4. -/
theorem test_jp : after 0x1234 State.reset whereAt = some (0x234, .ready, none) ∧
    after 0x1200 State.reset whereAt = some (0x200, .ready, none) := by decide

/-- T5: the jump to 0xFFF is legal, the fetch there is not. -/
theorem test_fetch_straddles_the_top : (nextOf (cycle (State.reset.setPc 0xFFF))).map whereAt =
    some (0xFFF, .halted, some (.outOfRangeAccess 0x1000)) := by decide

/-- T6. -/
theorem test_call : after 0x2300 (State.reset.setPc 0x202) (fun t => (t.pc, t.sp, t.stack[0])) =
    some (0x300, 1, 0x204) := by decide

/-- T7, T8. -/
theorem test_call_depth :
    after 0x2300 ((withDepth 15 State.reset).setPc 0x202) (fun t => (t.pc, t.sp, t.stack[15])) =
      some (0x300, 16, 0x204) ∧
    after 0x2300 ((withDepth 16 State.reset).setPc 0x202) whereAt =
      some (0x202, .halted, some (.stackOverflow 16)) := by decide

/-- T9, T10. -/
theorem test_se_kk : after 0x3A05 (regs [(10, 5)]) State.pc = some 0x204 ∧
    after 0x3A05 (regs [(10, 6)]) State.pc = some 0x202 := by decide

/-- T11, T12. -/
theorem test_sne_kk : after 0x4A05 (regs [(10, 5)]) State.pc = some 0x202 ∧
    after 0x4A05 (regs [(10, 6)]) State.pc = some 0x204 := by decide

/-- T13, T14. -/
theorem test_se_vy : after 0x5120 (regs [(1, 0x7F), (2, 0x7F)]) State.pc = some 0x204 ∧
    after 0x5120 (regs [(1, 0x7F), (2, 0x7E)]) State.pc = some 0x202 := by decide

/-- T17, T18. -/
theorem test_sne_vy : after 0x9120 (regs [(1, 1), (2, 2)]) State.pc = some 0x204 ∧
    after 0x9120 (regs [(1, 2), (2, 2)]) State.pc = some 0x202 := by decide

/-- T21, T22. -/
theorem test_jp_v0 : after 0xB300 (regs [(0, 4)]) State.pc = some 0x304 ∧
    after 0xBFFF (regs [(0, 0xFF)]) State.pc = some 0x10FE := by decide

/-! ### One cycle: load, arithmetic, logic, shift, random -/

/-- A1, T5d: also at the last address that can be fetched. -/
theorem test_ld_kk : after 0x6A2C State.reset (fun t => (t.reg 10, t.pc)) = some (0x2C, 0x202) ∧
    after 0x6A01 (State.reset.setPc 0xFFE) (fun t => (t.reg 10, t.pc)) = some (0x01, 0x1000) := by decide

/-- A3, A4. -/
theorem test_add_kk : after 0x7005 (regs [(0, 0xFE), (15, 7)]) (fun t => (t.reg 0, t.reg 15)) = some (3, 7) ∧
    after 0x7F01 (regs [(15, 0xFF)]) (fun t => t.reg 15) = some 0 := by decide

/-- A6. -/
theorem test_ld_vy : after 0x8120 (regs [(2, 0x55)]) (fun t => (t.reg 1, t.reg 2)) = some (0x55, 0x55) := by decide

/-- A8. -/
theorem test_or : after 0x8121 (regs [(1, 0xF0), (2, 0x0F), (15, 9)]) (fun t => (t.reg 1, t.reg 15)) =
    some (0xFF, 9) := by decide

/-- A9. -/
theorem test_and : after 0x8122 (regs [(1, 0xF3), (2, 0x3F), (15, 9)]) (fun t => (t.reg 1, t.reg 15)) =
    some (0x33, 9) := by decide

/-- A10. -/
theorem test_xor : after 0x8123 (regs [(1, 0xFF), (2, 0x0F), (15, 9)]) (fun t => (t.reg 1, t.reg 15)) =
    some (0xF0, 9) := by decide

/-- A12, A14. -/
theorem test_add_vy : after 0x8124 (regs [(1, 0xC8), (2, 0x64)]) (fun t => (t.reg 1, t.reg 15)) = some (0x2C, 1) ∧
    after 0x8124 (regs [(1, 0xFE), (2, 1), (15, 1)]) (fun t => (t.reg 1, t.reg 15)) = some (0xFF, 0) := by decide

/-- A18, A20: the flag register as destination and as operand. -/
theorem test_add_vf : after 0x8F14 (regs [(15, 0xF0), (1, 0x20)]) (fun t => t.reg 15) = some 1 ∧
    after 0x81F4 (regs [(1, 1), (15, 1)]) (fun t => (t.reg 1, t.reg 15)) = some (2, 0) := by decide

/-- A23, A24. -/
theorem test_sub : after 0x8125 (regs [(1, 5), (2, 10), (15, 1)]) (fun t => (t.reg 1, t.reg 15)) = some (0xFB, 0) ∧
    after 0x8125 (regs [(1, 0x33), (2, 0x33)]) (fun t => (t.reg 1, t.reg 15)) = some (0, 1) := by decide

/-- A26. -/
theorem test_sub_vf : after 0x8F15 (regs [(15, 5), (1, 3)]) (fun t => t.reg 15) = some 1 := by decide

/-- A28, A31. -/
theorem test_subn : after 0x8127 (regs [(1, 5), (2, 10)]) (fun t => (t.reg 1, t.reg 15)) = some (5, 1) ∧
    after 0x81F7 (regs [(1, 1)]) (fun t => (t.reg 1, t.reg 15)) = some (0xFF, 0) := by decide

/-- A35: the second field is ignored. -/
theorem test_shr : after 0x8126 (regs [(1, 5), (2, 0xF0)]) (fun t => (t.reg 1, t.reg 2, t.reg 15)) =
    some (2, 0xF0, 1) := by decide

/-- A37. -/
theorem test_shr_vf : after 0x8F06 (regs [(15, 2)]) (fun t => t.reg 15) = some 0 := by decide

/-- A38, A41. -/
theorem test_shl : after 0x810E (regs [(1, 0x81)]) (fun t => (t.reg 1, t.reg 15)) = some (2, 1) ∧
    after 0x812E (regs [(1, 0x40), (2, 0xFF)]) (fun t => (t.reg 1, t.reg 15)) = some (0x80, 0) := by decide

/-- A42. -/
theorem test_shl_vf : after 0x8F0E (regs [(15, 0xC0)]) (fun t => t.reg 15) = some 1 := by decide

/-- A44, A45. -/
theorem test_rnd : after 0xC30F (withRand 0xA7 State.reset) (fun t => t.reg 3) = some 7 ∧
    after 0xC300 (withRand 0xFF (regs [(3, 0x55)])) (fun t => t.reg 3) = some 0 := by decide

/-! ### One cycle: address register and memory -/

/-- M1, M2. -/
theorem test_ld_i : after 0xA22A State.reset State.i = some 0x22A ∧ after 0xAFFF State.reset State.i = some 0xFFF := by
  decide

/-- M4, M5. -/
theorem test_add_i : after 0xF21E (atI 0xFFF [] [(2, 1), (15, 5)]) (fun t => (t.i, t.reg 15)) = some (0x1000, 5) ∧
    after 0xF21E (atI 0xFFFF [] [(2, 2), (15, 5)]) (fun t => (t.i, t.reg 15)) = some (1, 5) := by decide

/-- M7, M8. -/
theorem test_ld_f : after 0xF329 (regs [(3, 0x0F)]) State.i = some 0x4B ∧
    after 0xF329 (regs [(3, 0x1A)]) State.i = some 0x32 := by decide

/-- M15. -/
theorem test_ld_b : after 0xF533 (atI 0xFFD [] [(5, 123)]) (fun t => (t.mem.readMany 0xFFD 3, t.i)) =
    some ([1, 2, 3], 0xFFD) := by decide

/-- M16, M17b. -/
theorem test_ld_b_out : after 0xF533 (atI 0xFFE [] [(5, 123)]) (fun t => (whereAt t, t.mem.readMany 0xFFE 2)) =
      some ((0x200, .halted, some (.outOfRangeAccess 0x1000)), [0, 0]) ∧
    after 0xF533 (atI 0xFFFF [] [(5, 123)]) whereAt =
      some (0x200, .halted, some (.outOfRangeAccess 0xFFFF)) := by decide

/-- M18. -/
theorem test_ld_mem : after 0xF255 (atI 0x400 [] [(0, 0x11), (1, 0x22), (2, 0x33), (3, 0x44)])
    (fun t => (t.mem.readMany 0x400 4, t.i, t.pc)) = some ([0x11, 0x22, 0x33, 0], 0x403, 0x202) := by decide

/-- M22, M23. -/
theorem test_ld_mem_top : after 0xF055 (atI 0xFFF [] [(0, 1)]) (fun t => (t.mem.read 0xFFF, t.i)) =
      some (1, 0x1000) ∧
    after 0xF055 (atI 0x1000 [] [(0, 1)]) (fun t => (whereAt t, t.i)) =
      some ((0x200, .halted, some (.outOfRangeAccess 0x1000)), 0x1000) := by decide

/-- M24. -/
theorem test_ld_from_mem : after 0xF165 (atI 0x400 [0xAA, 0xBB, 0xCC] [(2, 0x77)])
    (fun t => (t.reg 0, t.reg 1, t.reg 2, t.i)) = some (0xAA, 0xBB, 0x77, 0x402) := by decide

/-- M27, M28. -/
theorem test_ld_from_mem_top :
    after 0xF165 (atI 0xFFF [] [(0, 9), (1, 9)]) (fun t => (whereAt t, t.reg 0, t.reg 1)) =
      some ((0x200, .halted, some (.outOfRangeAccess 0x1000)), 9, 9) ∧
    after 0xF165 (atI 0xFFE [1, 2] []) (fun t => (t.reg 0, t.reg 1, t.i)) = some (1, 2, 0x1000) := by decide

/-! ### One cycle: display -/

/-- DR1, from one set pixel. -/
theorem test_cls : after 0x00E0 ((regs [(15, 1)]).setFb (Display.clear.toggle 5 5)) (fun t => (lit t, t.reg 15)) =
    some (0, 1) := by decide

/-- DR5: both axes wrap. -/
theorem test_drw_wraps : after 0xD122 (atI 0x300 [0xFF, 0x81] [(1, 60), (2, 31)])
    (fun t => (lit t, [t.fb.pixel 31 60, t.fb.pixel 31 63, t.fb.pixel 31 0, t.fb.pixel 31 3, t.fb.pixel 0 60,
      t.fb.pixel 0 3], t.reg 15)) = some (10, [true, true, true, true, true, true], 0) := by decide

/-- DR12, DR11: a part collides; the old `VF` is a coordinate. -/
theorem test_drw_collision :
    after 0xD121 ((atI 0x300 [0xC0] []).setFb (Display.clear.toggle 0 0))
      (fun t => (t.fb.pixel 0 0, t.fb.pixel 0 1, t.reg 15)) = some (false, true, 1) ∧
    after 0xDF11 (atI 0x300 [0x80] [(15, 3), (1, 2)]) (fun t => (lit t, t.fb.pixel 2 3, t.reg 15)) =
      some (1, true, 0) := by decide

/-! ### One cycle: keypad and timers -/

/-- K1, K4. -/
theorem test_skp : after 0xE39E (withKey (some 5) (regs [(3, 5)])) State.pc = some 0x204 ∧
    after 0xE39E (withKey (some 5) (regs [(3, 0x15)])) State.pc = some 0x202 := by decide

/-- K5, K6. -/
theorem test_sknp : after 0xE3A1 (regs [(3, 5)]) State.pc = some 0x204 ∧
    after 0xE3A1 (withKey (some 5) (regs [(3, 5)])) State.pc = some 0x202 := by decide

/-- K10. -/
theorem test_ld_dt : after 0xF207 (State.reset.setDt 0x3C) (fun t => (t.reg 2, t.pc)) = some (0x3C, 0x202) := by
  decide

/-- K11, K13. -/
theorem test_set_dt : after 0xF215 (regs [(2, 0x3C)]) State.dt = some 0x3C ∧
    after 0xF215 (State.reset.setDt 9) State.dt = some 0 := by decide

/-- K12. -/
theorem test_set_st : after 0xF318 (regs [(3, 2)]) (fun t => (t.st, t.soundActive)) = some (2, true) := by decide

/-- K14, first cycle: the key is not sampled yet. -/
theorem test_wait_entered : after 0xF40A (withKey (some 11) State.reset) (fun t => (whereAt t, t.waitx, t.reg 4)) =
    some ((0x200, .awaitingKey, none), 4, 0) := by decide

/-- A state in the key wait of V4, its instruction at `pc`. -/
def waiting (k : Option Key) : State := withKey k ((State.reset.placeWord 0xF40A).enterWait 4)

/-- K14, second cycle. -/
theorem test_wait_completed : (nextOf (cycle (waiting (some 11)))).map (fun t => (whereAt t, t.reg 4)) =
    some ((0x202, .ready, none), 11) := by decide

/-- X1, X3. -/
theorem test_tick : ((State.reset.setDt 2).setSt 1).tick.dt = 1 ∧ ((State.reset.setDt 2).setSt 1).tick.st = 0 ∧
    State.reset.tick = State.reset := by decide

/-- X4: 255 ticks, and a 256th. -/
theorem test_ticks_255 : countDownN 255 0xFF = 0 ∧ countDownN 254 0xFF = 1 ∧ countDownN 256 0xFF = 0 := by
  decide +kernel

/-! ### Reset and host -/

/-- A halted state: H2's end. -/
def halted : State := raise (.decodeError 0x0000 0x0200) State.reset

/-- H2, H6. -/
theorem test_first_cycle_with_nothing_loaded : nextOf (cycle State.reset) = some halted ∧
    nextOf (cycle halted) = some halted := by decide

/-- H3 (S1): load two bytes and run a cycle. -/
theorem test_load_and_run : (match State.reset.load [0xA2, 0x2A] 0x200 with
    | .loaded s => (nextOf (cycle s)).map (fun t => (t.i, t.pc))
    | _ => none) = some (0x22A, 0x202) := by decide

/-- H4, H5 (decision D20): the last bytes fit, one more does not; a late load is not permitted. -/
theorem test_load_bounds : State.reset.load [1, 2] 0xFFE = .loaded (State.reset.setMem [(0xFFE, 1), (0xFFF, 2)]) ∧
    State.reset.load [1, 2] 0xFFF = .outOfRange 0x1000 ∧
    State.load { State.reset with started := true } [1] 0x200 = .notPermitted := by decide

/-- R263: 80 bytes of font. -/
theorem test_font_size : Config.fontTable.length = 80 := by decide

/-- R31, R220: the numeric codes. -/
theorem test_codes : Mode.code .ready = 0 ∧ Mode.code .awaitingKey = 1 ∧ Mode.code .halted = 2 ∧
    FatalError.code (.decodeError 0 0) = 1 ∧ FatalError.code (.stackOverflow 16) = 2 ∧
    FatalError.code (.stackUnderflow 0) = 3 ∧ FatalError.code (.outOfRangeAccess 0) = 4 := by decide

/-! ### Witnesses: concrete data that meet each statement's hypotheses, clause by clause -/

/-- DecodeEncodeRoundTrip, DecodeBytesReadsTwoBytes: a well-formed instruction at every field's largest value. -/
theorem witness_wellFormed : (Instr.drw 15 15 15).wellFormed = true ∧ encodeBytes (.drw 15 15 15) = [0xDF, 0xFF] := by
  decide

/-- EncodeDecodeRoundTrip. -/
theorem witness_decodes : decode 0xDFFF = .ok (.drw 15 15 15) := by decide

/-- StepRunsDecodedInstruction, at the last address that can be fetched. -/
theorem witness_step_runs : let s := (State.reset.setPc 0xFFE).placeWord 0x6A01
    s.mode = .ready ∧ s.pc.toNat + 1 ≤ 4095 ∧
    decode (wordOfBytes (s.mem.read s.pc.toNat) (s.mem.read (s.pc.toNat + 1))) = .ok (.ldVxKk 10 1) ∧
    (Instr.ldVxKk 10 1).wellFormed = true := by decide

/-- StepAddsTicksAndPresentation: a script with an entry, and an empty one. -/
theorem witness_script : (∃ p rest, (quiet State.reset).script = p :: rest) ∧ State.reset.script = [] :=
  ⟨⟨_, _, rfl⟩, rfl⟩

/-- FetchIsBigEndianAndChecked: each clause at its boundary. -/
theorem witness_fetch_clauses : memReadWord [(4094, 0xA2), (4095, 0x2A)] 4094 = .ok 0xA22A ∧
    memReadWord [] 4095 = .error (.outOfRangeAccess 4096) ∧
    memReadWord [] 4096 = .error (.outOfRangeAccess 4096) ∧
    memReadWord [] 65535 = .error (.outOfRangeAccess 65535) := by decide

/-- FetchOutOfRangeHalts: at 4095 and at the largest value a rule puts in `pc`. -/
theorem witness_fetch_out : State.reset.mode = .ready ∧ (State.reset.setPc 0xFFF).pc.toNat > 4094 ∧
    (State.reset.setPc 0x10FE).pc.toNat > 4094 := by decide

/-- A state whose word at `pc` is illegal. -/
def Illegal (s : State) : Prop := s.mode = .ready ∧ s.pc.toNat ≤ 4094 ∧
  legalWord (wordOfBytes (s.mem.read s.pc.toNat) (s.mem.read (s.pc.toNat + 1))) = false

/-- IllegalWordHalts: nothing loaded, and the last address that can be fetched. -/
theorem witness_illegal_word : Illegal State.reset ∧ Illegal ((State.reset.setPc 0xFFE).placeWord 0x8128) :=
  ⟨⟨rfl, by decide, by decide⟩, ⟨rfl, by decide, by decide⟩⟩

/-- RunStateTransitions: a step from each run state, waiting with and without a key, and one that enters the wait. -/
theorem witness_transitions :
    (∃ t, step (quiet halted) = .next t ∧ (quiet halted).mode = .halted) ∧
    (∃ t, step (quiet (waiting none)) = .next t ∧ (waiting none).mode = .awaitingKey ∧
      (waiting none).input.key = none) ∧
    (∃ t, step (quiet (waiting (some 11))) = .next t ∧ (waiting (some 11)).input.key ≠ none) ∧
    (nextOf (step (quiet (State.reset.placeWord 0xF40A)))).map State.mode = some .awaitingKey :=
  ⟨⟨_, rfl, rfl⟩, ⟨_, rfl, rfl, rfl⟩, ⟨_, rfl, by decide⟩, by decide⟩

/-- FatalErrorUndoesTheCycle: one state for each of the four errors. -/
theorem witness_fatal : ([State.reset, State.reset.placeWord 0x00EE, (withDepth 16 State.reset).placeWord 0x2300,
    (atI 0xFFE [] []).placeWord 0xF533].map fun s => (s.mode, (nextOf (cycle s)).map State.mode)) =
    List.replicate 4 (.ready, some .halted) := by decide

/-- OnlySixInstructionsRaise: each of the six does. -/
theorem witness_raises : State.reset.mode = .ready ∧ (atI 0x1000 [] []).mode = .ready ∧
    (nextOf (exec .ret State.reset)).map State.mode = some .halted ∧
    (nextOf (exec (.call 0) (withDepth 16 State.reset))).map State.mode = some .halted ∧
    ([Instr.ldBVx 0, .ldMemVx 0, .ldVxMem 0, .drw 0 0 1].map fun i =>
      (nextOf (exec i (atI 0x1000 [] []))).map State.mode) = List.replicate 4 (some .halted) := by decide

/-- HaltedStaysHalted. -/
theorem witness_halted : halted.mode = .halted ∧ halted.err = some (.decodeError 0x0000 0x0200) := by decide

/-- ParkedStaysParked, at the program base and at the last address that can be fetched. -/
theorem witness_parked : (State.reset.placeWord 0x1200).Parked ∧ ((State.reset.setPc 0xFFE).placeWord 0x1FFE).Parked :=
  ⟨⟨rfl, by decide⟩, ⟨rfl, by decide⟩⟩

/-- ReturnPopsOrUnderflows, CallPushesOrOverflows, PushThenPopReturnsTheValue: the depths where the clauses meet. -/
theorem witness_depths : State.reset.sp.val = 0 ∧ 0 < (withDepth 1 State.reset).sp.val ∧
    0 < (withDepth 16 State.reset).sp.val ∧ State.reset.sp.val < 16 ∧ (withDepth 15 State.reset).sp.val < 16 ∧
    (withDepth 16 State.reset).sp.val = 16 := by decide

/-- AddSetsCarry, SubtractionsSetNoBorrow, ShiftsSetTheBitShiftedOut: a destination that is not `VF`. -/
theorem witness_not_vf : (14 : RegIx) ≠ 15 := by decide

/-- FlagResultIsZeroOrOne: for each of its six instructions, a next state that is not halted. -/
theorem witness_flag :
    ([Instr.addVxVy 15 1, .subVxVy 15 1, .shrVx 15 1, .subnVxVy 15 1, .shlVx 15 1, .drw 15 1 0].map fun i =>
      (nextOf (exec i State.reset)).map State.mode) = List.replicate 6 (some .ready) := by decide

/-- DecimalDigitsStored: the last address is 4095, then 4096. -/
theorem witness_digits : (atI 0xFFD [9] []).mem.wf = true ∧ (atI 0xFFD [9] []).effAddr 2 = 4095 ∧
    (atI 0xFFE [] []).effAddr 2 = 4096 := by decide

/-- BulkStore, BulkLoad: the last address is 4095, then 4096, with one register and with all. -/
theorem witness_bulk : (atI 0xFF0 [9] []).mem.wf = true ∧ (atI 0xFF0 [9] []).effAddr (15 : RegIx).val = 4095 ∧
    (atI 0xFF1 [] []).effAddr (15 : RegIx).val = 4096 ∧ (atI 0xFFF [] []).effAddr (0 : RegIx).val = 4095 ∧
    (atI 0x1000 [] []).effAddr (0 : RegIx).val = 4096 := by decide

/-- StoreIsSeenByTheNextFetch: `I` points at the next instruction. -/
theorem witness_store_fetch : let s := atI 0x202 [] [(0, 0x6A), (1, 0x55)]
    s.mem.wf = true ∧ s.effAddr (1 : RegIx).val ≤ 4095 ∧
    (nextOf (exec (.ldMemVx 1) s)).map (fun t => t.pc.toNat) = some (s.effAddr 0) := by decide

/-- RangeCheckReportsTheLowestAddress: no access, a last address of 4095, and an access that straddles the top. -/
theorem witness_range : checkRange 5000 0 = .ok () ∧ checkRange 4093 3 = .ok () ∧
    checkRange 4094 3 = .error (.outOfRangeAccess 4096) ∧ checkRange 5000 2 = .error (.outOfRangeAccess 5000) :=
  ⟨by rfl, by rfl, by rfl, by rfl⟩

/-- ByteReadsAndWrites, CanonicalMemoriesThatReadAlikeAreEqual: a canonical memory, and the clauses' boundary. -/
theorem witness_memory : Memory.wf [(3, 1), (4095, 2)] = true ∧
    memWrite [(3, 1)] 4095 2 = .ok [(3, 1), (4095, 2)] ∧
    memWrite [(3, 1)] 4096 2 = .error (.outOfRangeAccess 4096) ∧
    Memory.write [(4095, 2)] 3 1 = [(3, 1), (4095, 2)] ∧
    Memory.write [(3, 1), (4095, 2)] 3 0 = [(4095, 2)] := by decide

/-- DrawFlipsTheSpritesPixels: no row whatever `I` is (DR7), the last row at 4095, and one row beyond (DR8). -/
theorem witness_draw : (atI 0xFF1 [] []).effAddr 15 = 4096 ∧ (atI 0x1000 [] []).effAddr 1 = 4097 ∧
    after 0xD120 ((atI 0xFFFF [] [(15, 1)]).setFb (Display.clear.toggle 5 5))
      (fun t => (whereAt t, t.fb.pixel 5 5, t.reg 15)) = some ((0x202, .ready, none), true, 0) ∧
    after 0xD121 (atI 0x1000 [] [(15, 1)]) (fun t => (whereAt t, t.reg 15)) =
      some ((0x200, .halted, some (.outOfRangeAccess 0x1000)), 1) := by decide

/-- DrawFlipsTheSpritesPixels: a pixel that is hit. -/
theorem witness_sprite_hits : SpriteHits (atI 0x300 [0x80] []) 70 40 1 8 6 :=
  ⟨0, 0, by decide, by decide, by decide, by decide, by decide⟩

/-- DrawnTwiceCancels (DR2, DR2'): the first draw sets a pixel, the second clears it. -/
theorem witness_drawn_twice : let s := atI 0x300 [0x80] [(0, 1), (1, 2)]
    s.effAddr 1 ≤ 4096 ∧
    (nextOf (exec (.drw 0 1 1) s)).map (fun t => (t.reg 0, t.reg 1, t.fb.pixel 2 1, t.reg 15)) =
      some (s.reg 0, s.reg 1, true, 0) ∧
    ((nextOf (exec (.drw 0 1 1) s)).bind fun t => (nextOf (exec (.drw 0 1 1) t)).map fun u =>
      (u.fb.pixel 2 1, u.reg 15)) = some (false, 1) := by decide

/-- KeySkips: a key that matches, a key that does not (K3), no key (K2), and key 0 (K4b). -/
theorem witness_key_skips : ((withKey (some 5) (regs [(3, 5)])).input.key = some 5 ∧
      (5 : Key).val = ((regs [(3, 5)]).reg 3).toNat) ∧
    after 0xE39E (withKey (some 6) (regs [(3, 5)])) State.pc = some 0x202 ∧
    after 0xE39E (regs [(3, 5)]) State.pc = some 0x202 ∧
    after 0xE39E (withKey (some 0) State.reset) State.pc = some 0x204 := by decide

/-- KeyWait: waiting without and with a key. -/
theorem witness_key_wait : ((waiting none).mode = .awaitingKey ∧ (waiting none).input.key = none) ∧
    ((waiting (some 0)).mode = .awaitingKey ∧ (waiting (some 0)).input.key = some 0) := by decide

/-- DelayTimerRisesOnlyByStore: a step in which it rises. -/
theorem witness_timer_rises : (nextOf (step (quiet ((regs [(2, 0x3C)]).placeWord 0xF215)))).map
    (fun t => decide (((regs [(2, 0x3C)]).placeWord 0xF215).dt.toNat < t.dt.toNat)) = some true := by decide

/-- LoadWritesItsBytesOrNothing: the window open, a load that just fits, one that does not, and a step after which
the window is closed. -/
theorem witness_load : State.reset.mem.wf = true ∧ State.reset.started = false ∧
    0xFFE + ([1, 2] : List Byte).length ≤ 4096 ∧ 0xFFF + ([1, 2] : List Byte).length > 4096 ∧
    (nextOf (step (quiet State.reset))).map State.started = some true := by decide

/-- BootInstallsFontAndProgram: no program, and one of the largest size. -/
theorem witness_boot : ([] : List Byte).length ≤ 3584 ∧ (List.replicate 3584 (0x12 : Byte)).length ≤ 3584 :=
  ⟨Nat.zero_le _, Nat.le_of_eq List.length_replicate⟩

/-- PlacedWordIsTheOneExecuted, at the program base and at the last address that can be fetched. -/
theorem witness_placed : State.reset.mem.wf = true ∧ State.reset.pc.toNat ≤ 4094 ∧
    (State.reset.setPc 0xFFE).pc.toNat ≤ 4094 ∧ (Instr.drw 1 2 15).wellFormed = true ∧
    (nextOf (step (quiet (State.reset.withFetchWord 16 0x6A2C)))).map (fun t => t.reg 10) = some 0x2C := by decide

/-- InstructionsWriteOnlyTheirPieces, SoundTimerIsNeverRead, DisplayIsReadByDrawAlone,
InputsAreSampledWhereTheRulesSay: an instruction that answers a next state, is no draw, no key skip and no random
byte, from a state with a canonical memory that it changes. -/
theorem witness_exec : let s := atI 0x400 [7] [(0, 1)]
    s.mem.wf = true ∧ (∃ t, exec (.ldMemVx 0) s = .next t) ∧ (∀ x y n, Instr.ldMemVx 0 ≠ .drw x y n) ∧
    (∀ x, Instr.ldMemVx 0 ≠ .skpVx x ∧ Instr.ldMemVx 0 ≠ .sknpVx x) ∧ (∀ x kk, Instr.ldMemVx 0 ≠ .rndVxKk x kk) ∧
    (nextOf (exec (.ldMemVx 0) s)).map State.mem = some [(0x400, 1)] :=
  ⟨by decide, ⟨_, rfl⟩, by intros; exact Instr.noConfusion,
    by intros; exact ⟨Instr.noConfusion, Instr.noConfusion⟩, by intros; exact Instr.noConfusion, by decide⟩

/-- VacantSlotsAreUnobservable: the only vacant slot, with an instruction that fills it. -/
theorem witness_vacant : (withDepth 15 State.reset).sp.val ≤ (15 : Fin 16).val ∧
    ∃ t, exec (.call 0x300) (withDepth 15 State.reset) = .next t := ⟨by decide, ⟨_, rfl⟩⟩

/-- StepKeepsTheInvariant, RunsKeepTheInvariant: a state in the key wait meets the invariant and steps. -/
theorem witness_inv_waiting : (waiting (some 11)).Inv ∧ ∃ t, step (waiting (some 11)) = .next t := by
  refine ⟨⟨by decide, by decide, by decide, by decide, ?_, ?_⟩, ⟨_, rfl⟩⟩
  · intro e h; cases h
  · intro _; exact ⟨0xF40A, by decide, by decide⟩

/-- The invariant's clause on the error record: a halted state meets it, with a return address on the stack. -/
theorem witness_inv_halted : (withDepth 1 halted).Inv := by
  refine ⟨by decide, by decide, by decide, by decide, ?_, ?_⟩
  · intro e h; cases h; exact ⟨rfl, by decide, by decide⟩
  · intro h; cases h

end Sys2Proof.Tests
end

section
/-! SUPPORT. Frames: how `SameBut` composes, and one rule per state operation. An instruction's frame is read off its
meaning by applying the rules in the order of its updates. -/

namespace Sys2Proof.Machine

/-! ### Composition -/

theorem SameOutside.trans {s t u : State} (h : SameOutside s t) (h' : SameOutside t u) : SameOutside s u := by
  obtain ⟨h1, h2, h3, h4⟩ := h
  obtain ⟨h1', h2', h3', h4'⟩ := h'
  exact ⟨h1'.trans h1, h2'.trans h2, h3'.trans h3, h4'.trans h4⟩

theorem SameCoreBut.refl (ps : List Piece) (s : State) : SameCoreBut ps s s :=
  ⟨fun _ _ => rfl, fun _ => rfl, fun _ => rfl, fun _ => ⟨rfl, fun _ => rfl⟩, fun _ => rfl, fun _ => rfl,
    fun _ _ _ => rfl, fun _ _ => rfl, fun _ => ⟨rfl, rfl⟩, fun _ => rfl⟩

theorem SameCoreBut.trans {ps : List Piece} {s t u : State} (h : SameCoreBut ps s t) (h' : SameCoreBut ps t u) :
    SameCoreBut ps s u := by
  obtain ⟨hv, hi, hpc, hstack, hdt, hst, hfb, hmem, hstatus, hwait⟩ := h
  obtain ⟨hv', hi', hpc', hstack', hdt', hst', hfb', hmem', hstatus', hwait'⟩ := h'
  exact ⟨fun k hk => (hv' k hk).trans (hv k hk), fun hp => (hi' hp).trans (hi hp),
    fun hp => (hpc' hp).trans (hpc hp),
    fun hp => ⟨(hstack' hp).1.trans (hstack hp).1, fun k => ((hstack' hp).2 k).trans ((hstack hp).2 k)⟩,
    fun hp => (hdt' hp).trans (hdt hp), fun hp => (hst' hp).trans (hst hp),
    fun hp r c => (hfb' hp r c).trans (hfb hp r c), fun hp a => (hmem' hp a).trans (hmem hp a),
    fun hp => ⟨(hstatus' hp).1.trans (hstatus hp).1, (hstatus' hp).2.trans (hstatus hp).2⟩,
    fun hp => (hwait' hp).trans (hwait hp)⟩

theorem SameBut.refl (ps : List Piece) (s : State) : SameBut ps s s := ⟨.refl ps s, rfl, rfl, rfl, rfl⟩

theorem SameBut.trans {ps : List Piece} {s t u : State} (h : SameBut ps s t) (h' : SameBut ps t u) :
    SameBut ps s u := ⟨h.1.trans h'.1, h.2.trans h'.2⟩

/-- Naming more pieces says less. -/
theorem SameBut.mono {ps qs : List Piece} {s t : State} (h : SameBut ps s t) (hsub : ∀ p ∈ ps, p ∈ qs) :
    SameBut qs s t := by
  obtain ⟨⟨hv, hi, hpc, hstack, hdt, hst, hfb, hmem, hstatus, hwait⟩, hout⟩ := h
  exact ⟨⟨fun k hk => hv k (mt (hsub _) hk), fun hp => hi (mt (hsub _) hp), fun hp => hpc (mt (hsub _) hp),
    fun hp => hstack (mt (hsub _) hp), fun hp => hdt (mt (hsub _) hp), fun hp => hst (mt (hsub _) hp),
    fun hp => hfb (mt (hsub _) hp), fun hp => hmem (mt (hsub _) hp), fun hp => hstatus (mt (hsub _) hp),
    fun hp => hwait (mt (hsub _) hp)⟩, hout⟩

/-! ### One rule per operation -/

variable {ps : List Piece} {s t : State}

/-- A register file that differs at listed registers alone. -/
theorem SameBut.setV (h : SameBut ps s t) {v : Vector Byte 16}
    (hv : ∀ k : RegIx, .reg k ∉ ps → v[k] = t.reg k) : SameBut ps s (t.setV v) :=
  h.trans ⟨⟨hv, (SameCoreBut.refl ps t).2⟩, rfl, rfl, rfl, rfl⟩

theorem SameBut.setReg (h : SameBut ps s t) {k : RegIx} (hk : .reg k ∈ ps) (b : Byte) :
    SameBut ps s (t.setReg k b) := by
  refine h.trans ⟨⟨fun j hj => ?_, (SameCoreBut.refl ps t).2⟩, rfl, rfl, rfl, rfl⟩
  have hne : j ≠ k := fun hjk => hj (hjk ▸ hk)
  exact State.reg_setReg_ne t k j b hne

theorem SameBut.setRegFlag (h : SameBut ps s t) {x : RegIx} (hx : .reg x ∈ ps)
    (hf : .reg 15 ∈ ps) (r : Byte × Bool) : SameBut ps s (t.setRegFlag x r) := (h.setReg hx r.1).setReg hf _

theorem SameBut.setI (h : SameBut ps s t) (hp : .i ∈ ps) (w : Word) :
    SameBut ps s (t.setI w) := by
  obtain ⟨hv, -, hrest⟩ := SameCoreBut.refl ps t
  exact h.trans ⟨⟨hv, (absurd hp ·), hrest⟩, rfl, rfl, rfl, rfl⟩

theorem SameBut.setPc (h : SameBut ps s t) (hp : .pc ∈ ps) (w : Word) :
    SameBut ps s (t.setPc w) := by
  obtain ⟨hv, hi, -, hrest⟩ := SameCoreBut.refl ps t
  exact h.trans ⟨⟨hv, hi, (absurd hp ·), hrest⟩, rfl, rfl, rfl, rfl⟩

theorem SameBut.advance (h : SameBut ps s t) (hp : .pc ∈ ps) :
    SameBut ps s t.advance := h.setPc hp _

theorem SameBut.skipIf (h : SameBut ps s t) (hp : .pc ∈ ps) (c : Bool) :
    SameBut ps s (t.skipIf c) := h.setPc hp _

/-- The slots and the depth, as `push` and `pop` change them. -/
theorem SameBut.setStack (h : SameBut ps s t) (hp : .stack ∈ ps)
    (stack : Vector Word 16) (sp : Fin 17) : SameBut ps s { t with stack := stack, sp := sp } := by
  obtain ⟨hv, hi, hpc, -, hrest⟩ := SameCoreBut.refl ps t
  exact h.trans ⟨⟨hv, hi, hpc, (absurd hp ·), hrest⟩, rfl, rfl, rfl, rfl⟩

theorem SameBut.setDt (h : SameBut ps s t) (hp : .dt ∈ ps) (b : Byte) :
    SameBut ps s (t.setDt b) := by
  obtain ⟨hv, hi, hpc, hstack, -, hrest⟩ := SameCoreBut.refl ps t
  exact h.trans ⟨⟨hv, hi, hpc, hstack, (absurd hp ·), hrest⟩, rfl, rfl, rfl, rfl⟩

theorem SameBut.setSt (h : SameBut ps s t) (hp : .st ∈ ps) (b : Byte) :
    SameBut ps s (t.setSt b) := by
  obtain ⟨hv, hi, hpc, hstack, hdt, -, hrest⟩ := SameCoreBut.refl ps t
  exact h.trans ⟨⟨hv, hi, hpc, hstack, hdt, (absurd hp ·), hrest⟩, rfl, rfl, rfl, rfl⟩

theorem SameBut.setFb (h : SameBut ps s t) (hp : .pixels ∈ ps) (fb : Display) :
    SameBut ps s (t.setFb fb) := by
  obtain ⟨hv, hi, hpc, hstack, hdt, hst, -, hrest⟩ := SameCoreBut.refl ps t
  exact h.trans ⟨⟨hv, hi, hpc, hstack, hdt, hst, (absurd hp ·), hrest⟩, rfl, rfl, rfl, rfl⟩

theorem SameBut.setMem (h : SameBut ps s t) (hp : .memory ∈ ps) (m : Memory) :
    SameBut ps s (t.setMem m) := by
  obtain ⟨hv, hi, hpc, hstack, hdt, hst, hfb, -, hrest⟩ := SameCoreBut.refl ps t
  exact h.trans ⟨⟨hv, hi, hpc, hstack, hdt, hst, hfb, (absurd hp ·), hrest⟩, rfl, rfl, rfl, rfl⟩

theorem SameBut.raise (h : SameBut ps s t) (hp : .status ∈ ps) (e : FatalError) :
    SameBut ps s (raise e t) := by
  obtain ⟨hv, hi, hpc, hstack, hdt, hst, hfb, hmem, -, hwait⟩ := SameCoreBut.refl ps t
  exact h.trans ⟨⟨hv, hi, hpc, hstack, hdt, hst, hfb, hmem, (absurd hp ·), hwait⟩, rfl, rfl, rfl, rfl⟩

theorem SameBut.enterWait (h : SameBut ps s t) (hp : .status ∈ ps) (hw : .waitx ∈ ps)
    (x : RegIx) : SameBut ps s (t.enterWait x) := by
  obtain ⟨hv, hi, hpc, hstack, hdt, hst, hfb, hmem, -, -⟩ := SameCoreBut.refl ps t
  exact h.trans ⟨⟨hv, hi, hpc, hstack, hdt, hst, hfb, hmem, (absurd hp ·), (absurd hw ·)⟩, rfl, rfl, rfl, rfl⟩

theorem mem_piecesTo {x k : RegIx} : Piece.reg k ∈ piecesTo x ↔ k ≤ x := by
  simp [piecesTo]

end Sys2Proof.Machine
end

section
/-! SUPPORT. `exec` in two parts: the instruction's own check (R222), and what it does once the check has passed. -/

namespace Sys2Proof.Machine

/-- The check of R222 that the instruction makes before its first write; 28 instructions make none. -/
def ownCheck (i : Instr) (s : State) : Except FatalError Unit :=
  match i with
  | .ret => if s.sp.val = 0 then .error (.stackUnderflow 0) else .ok ()
  | .call _ => if s.sp.val = 16 then .error (.stackOverflow 16) else .ok ()
  | .drw _ _ n => checkRange (s.effAddr 0) n
  | .ldBVx _ => checkRange (s.effAddr 0) 3
  | .ldMemVx x | .ldVxMem x => checkRange (s.effAddr 0) (x.val + 1)
  | _ => .ok ()

/-- The state of a result; `s` where there is none. -/
def nextOr (s : State) : Result → State
  | .next t => t
  | .fault _ | .refused _ => s

/-- What an instruction does once its check has passed. For an instruction without a check this is `exec`. -/
def act (i : Instr) (s : State) : State :=
  match i with
  | .ret => ({ s with sp := ⟨s.sp.val - 1, by omega⟩ } : State).setPc (s.stack[s.sp.val - 1]'(by omega))
  | .call nnn =>
    ({ s with stack := s.stack.setIfInBounds s.sp.val s.npc, sp := s.sp + 1 } : State).setPc (addrOperand nnn)
  | .drw x y n =>
    ((s.setFb (drawSprite (s.reg x).toNat (s.reg y).toNat (s.mem.readMany (s.effAddr 0) n) s.fb).1).setReg 15
      (flagByte (drawSprite (s.reg x).toNat (s.reg y).toNat (s.mem.readMany (s.effAddr 0) n) s.fb).2)).advance
  | .ldBVx x => (s.setMem (s.mem.writeMany (s.effAddr 0) (bcdDigits (s.reg x)))).advance
  | .ldMemVx x => ((s.setMem (s.mem.writeMany (s.effAddr 0) (s.regsTo x))).setI (s.iAfterBulk x)).advance
  | .ldVxMem x =>
    ((s.setV (loadRegs s.v 0 (s.mem.readMany (s.effAddr 0) (x.val + 1)))).setI (s.iAfterBulk x)).advance
  | _ => nextOr s (exec i s)

theorem act_call {s : State} (nnn : BitVec 12) (h : s.sp.val < 16) :
    act (.call nnn) s =
      ({ s with stack := s.stack.set s.sp.val s.npc h, sp := ⟨s.sp.val + 1, by omega⟩ } : State).setPc
        (addrOperand nnn) := by
  have hstack : s.stack.setIfInBounds s.sp.val s.npc = s.stack.set s.sp.val s.npc h := by
    ext j hj
    rw [Vector.getElem_setIfInBounds, Vector.getElem_set]
  have hsp : s.sp + 1 = ⟨s.sp.val + 1, by omega⟩ := Fin.ext (Nat.mod_eq_of_lt (Nat.succ_lt_succ h))
  simp only [act, hstack, hsp]

theorem ownCheck_ret_ok {s : State} : ownCheck .ret s = .ok () ↔ 0 < s.sp.val := by
  simp [ownCheck, Nat.pos_iff_ne_zero]

theorem ownCheck_call_ok {s : State} {nnn : BitVec 12} : ownCheck (.call nnn) s = .ok () ↔ s.sp.val < 16 := by
  have := s.sp.isLt
  simp [ownCheck]; omega

theorem checkRange_eq_ok {lo count : Nat} : checkRange lo count = .ok () ↔ count = 0 ∨ lo + count ≤ 4096 := by
  rcases checkRange_cases lo count with ⟨h, h'⟩ | ⟨h, h'⟩ <;> simp [h'] <;> omega

theorem checkRange_eq_error {lo count : Nat} {e : FatalError} (h : checkRange lo count = .error e) :
    e = rangeError (max lo 4096) := by
  rcases checkRange_cases lo count with ⟨-, h'⟩ | ⟨-, h'⟩ <;> rw [h'] at h <;> cases h
  rfl

/-- The check reads the address register and the stack's depth alone. -/
theorem ownCheck_congr {s t : State} (i : Instr) (hi : t.i = s.i) (hsp : t.sp = s.sp) :
    ownCheck i t = ownCheck i s := by
  unfold ownCheck State.effAddr; rw [hi, hsp]

/-- A check that reports an error makes the instruction that fatal error. -/
theorem exec_of_check_error {i : Instr} {s : State} {e : FatalError} (h : ownCheck i s = .error e) :
    exec i s = .next (raise e s) := by
  cases i
  case ret =>
    simp only [ownCheck] at h
    split at h <;> cases h
    exact exec_ret_underflow ‹_›
  case call nnn =>
    simp only [ownCheck] at h
    split at h <;> cases h
    exact exec_call_overflow nnn ‹_›
  case drw x y n => simp only [ownCheck] at h; simp only [exec, execDrw, h]
  case ldBVx x => simp only [ownCheck] at h; simp only [exec, execLdBVx, h]
  case ldMemVx x => simp only [ownCheck] at h; simp only [exec, execLdMemVx, h]
  case ldVxMem x => simp only [ownCheck] at h; simp only [exec, execLdVxMem, h]
  all_goals cases h

/-- A check that passes leaves the instruction to act. -/
theorem exec_of_check_ok {i : Instr} {s : State} (h : ownCheck i s = .ok ()) : exec i s = .next (act i s) := by
  cases i
  case ret => exact exec_ret_ok (ownCheck_ret_ok.1 h)
  case call nnn => rw [act_call nnn (ownCheck_call_ok.1 h)]; exact exec_call_ok nnn (ownCheck_call_ok.1 h)
  case drw x y n => exact exec_drw_ok x y (checkRange_eq_ok.1 h)
  case ldBVx x => exact exec_ldBVx_ok x ((checkRange_eq_ok.1 h).resolve_left (by omega))
  case ldMemVx x => exact exec_ldMemVx_ok x ((checkRange_eq_ok.1 h).resolve_left (by omega))
  case ldVxMem x => exact exec_ldVxMem_ok x ((checkRange_eq_ok.1 h).resolve_left (by omega))
  all_goals rfl

/-- Everything `exec` can answer: the fatal error its check reports, or what the instruction does. -/
theorem exec_next_cases {i : Instr} {s t : State} (h : exec i s = .next t) :
    (∃ e, ownCheck i s = .error e ∧ t = raise e s) ∨ (ownCheck i s = .ok () ∧ t = act i s) := by
  cases hc : ownCheck i s with
  | error e => rw [exec_of_check_error hc] at h; cases h; exact .inl ⟨e, rfl, rfl⟩
  | ok _ => rw [exec_of_check_ok hc] at h; cases h; exact .inr ⟨rfl, rfl⟩

/-- `exec` answers a next state always (R221; log 14). -/
theorem exec_answers_next (i : Instr) (s : State) : ∃ t, exec i s = .next t := by
  cases hc : ownCheck i s with
  | error e => exact ⟨_, exec_of_check_error hc⟩
  | ok _ => exact ⟨_, exec_of_check_ok hc⟩

end Sys2Proof.Machine
end

section
/-! SUPPORT. The decoder answers an instruction exactly on the words that the table of R96 does not name: first the
families that look at more than their digit, then all sixteen. -/

namespace Sys2Proof

theorem decodeFamily0_ok_iff (w : Word) :
    (∃ i, decodeFamily0 w = .ok i) ↔ w.toNat = 0x00E0 ∨ w.toNat = 0x00EE := by
  unfold decodeFamily0
  split_ifs <;> simp_all [BitVec.toNat_eq]

theorem decodeFamily8_ok_iff (x y n : Fin 16) :
    (∃ i, decodeFamily8 x y n = .ok i) ↔ n.val < 8 ∨ n.val = 0xE := by
  unfold decodeFamily8
  split
  case h_10 => simp_all only [imp_false, reduceCtorEq, exists_false, false_iff, or_false]; omega
  all_goals simp; omega

theorem decodeFamilyE_ok_iff (x : RegIx) (kk : Byte) :
    (∃ i, decodeFamilyE x kk = .ok i) ↔ kk.toNat ∈ [0x9E, 0xA1] := by
  unfold decodeFamilyE
  split_ifs <;> simp_all [BitVec.toNat_eq]

theorem decodeFamilyF_ok_iff (x : RegIx) (kk : Byte) :
    (∃ i, decodeFamilyF x kk = .ok i) ↔ kk.toNat ∈ [0x07, 0x0A, 0x15, 0x18, 0x1E, 0x29, 0x33, 0x55, 0x65] := by
  unfold decodeFamilyF
  split_ifs <;> simp_all [BitVec.toNat_eq]

/-- R96: a word decodes exactly where the table of illegal words does not name it. -/
theorem decodes_iff_legalWord (w : Word) : (∃ i, decode w = .ok i) ↔ legalWord w = true := by
  have hfam := opFam_toNat w
  have hn := opN_toNat w
  have hkk := opKk_toNat w
  unfold decode
  split
  case h_1 h =>
    have hnnn : w.toNat < 4096 := by omega
    simp [decodeFamily0_ok_iff, legalWord, ← hfam, h, Nat.mod_eq_of_lt hnnn]
  case h_9 h =>
    simp [decodeFamily8_ok_iff, legalWord, ← hfam, h, ← hn]; omega
  case h_15 h => simp [decodeFamilyE_ok_iff, legalWord, ← hfam, h, ← hkk]
  case h_16 =>
    have h : (opFam w).val = 15 := by
      have := (opFam w).isLt
      simp only [imp_false] at *; omega
    simp [decodeFamilyF_ok_iff, legalWord, ← hfam, h, ← hkk, or_assoc]
  case h_6 h | h_10 h => by_cases h0 : opN w = 0 <;> simp [legalWord, ← hfam, h, ← hn, h0]
  all_goals next h => simp [legalWord, ← hfam, h]

end Sys2Proof
end

section
/-! SUPPORT. The invariant `State.Inv`, clause by clause: what an instruction that passed its check leaves of each
clause, then that a fatal error, a key-wait poll, a cycle and a step keep all of them. -/

namespace Sys2Proof.Machine

/-! ### Addresses and records -/

theorem Word.toNat_add_two {w : Word} (h : w.toNat < 4095) : (w + 2).toNat = w.toNat + 2 := by
  simp [BitVec.toNat_add]; omega

theorem Word.toNat_add_four {w : Word} (h : w.toNat < 4095) : (w + 4).toNat = w.toNat + 4 := by
  simp [BitVec.toNat_add]; omega

@[simp] theorem addrOperand_toNat (nnn : BitVec 12) : (addrOperand nnn).toNat = nnn.toNat := by
  have := nnn.isLt
  simp [addrOperand]; omega

/-- The sum of an address operand and a byte does not wrap (R127). -/
theorem addrOperand_add_zext16_toNat (nnn : BitVec 12) (b : Byte) :
    (addrOperand nnn + zext16 b).toNat = nnn.toNat + b.toNat := by
  have := nnn.isLt; have := b.isLt
  rw [BitVec.toNat_add, addrOperand_toNat]
  simp [zext16]; omega

/-- A reported address is above 4095 (R220). -/
theorem recordTrue_rangeError (s : State) {lo : Nat} (h : lo < 2 ^ 16) : RecordTrue s (rangeError (max lo 4096)) := by
  change 4096 ≤ (BitVec.ofNat 17 (max lo 4096)).toNat
  rw [BitVec.toNat_ofNat, Nat.mod_eq_of_lt (by omega)]; omega

theorem recordTrue_decodeError {s : State} {w : Word} {r : DecodeReject} (hf : fetch s = .ok w)
    (hd : decode w = .error r) : RecordTrue s (.decodeError w s.pc) := by
  refine ⟨rfl, hf, ?_⟩
  rw [← Bool.not_eq_true, ← decodes_iff_legalWord, hd]
  nofun

/-- What an instruction's own check reports is true of the state (R220, R222). -/
theorem recordTrue_of_check_error {s : State} {i : Instr} {e : FatalError} (h : ownCheck i s = .error e)
    (hf : s.Fetches i) : RecordTrue s e := by
  have hrange (n : Nat) (hn : checkRange (s.effAddr 0) n = .error e) : RecordTrue s e :=
    checkRange_eq_error hn ▸ recordTrue_rangeError s s.i.isLt
  cases i
  case ret =>
    simp only [ownCheck] at h
    split at h <;> cases h
    exact ⟨rfl, ‹_›, hf⟩
  case call nnn =>
    simp only [ownCheck] at h
    split at h <;> cases h
    exact ⟨rfl, ‹_›, nnn, hf⟩
  case drw x y n => exact hrange n h
  case ldBVx x => exact hrange 3 h
  case ldMemVx x | ldVxMem x => exact hrange (x.val + 1) h
  all_goals cases h

theorem State.Fetches.pc_lt {s : State} {i : Instr} (h : s.Fetches i) : s.pc.toNat < 4095 := by
  obtain ⟨w, hf, -⟩ := h
  exact (fetch_ok_iff.1 hf).1

/-! ### What an instruction leaves of each clause -/

/-- Only the fatal errors write `ERR`. -/
theorem act_err (i : Instr) (s : State) : (act i s).err = s.err := by
  cases i <;> rfl

/-- Among the instructions that pass their check, only `LD Vx, K` writes `MODE`. -/
theorem act_mode {i : Instr} {s : State} (hk : ∀ x, i ≠ .ldVxK x) : (act i s).mode = s.mode := by
  cases i
  case ldVxK x => exact absurd rfl (hk x)
  all_goals rfl

/-- The two stores write in range, all else leaves the memory as it is. -/
theorem act_mem_wf {i : Instr} {s : State} (hc : ownCheck i s = .ok ()) (h : s.mem.wf = true) :
    (act i s).mem.wf = true := by
  cases i
  case ldBVx x =>
    have hr : s.effAddr 0 + 3 ≤ 4096 := (checkRange_eq_ok.1 hc).resolve_left (by omega)
    exact Memory.wf_writeMany h _ hr
  case ldMemVx x =>
    have hr : s.effAddr 0 + (x.val + 1) ≤ 4096 := (checkRange_eq_ok.1 hc).resolve_left (by omega)
    exact Memory.wf_writeMany h _ (by simpa using hr)
  all_goals exact h

/-- Every live stack entry is a return address (R120). -/
def State.EntriesInRange (s : State) : Prop :=
  ∀ k : Fin 16, k.val < s.sp.val → 2 ≤ (s.stack[k]).toNat ∧ (s.stack[k]).toNat ≤ 4096

/-- `CALL` adds the return address `pc + 2`, `RET` leaves fewer entries. -/
theorem act_entriesInRange {i : Instr} {s : State} (hc : ownCheck i s = .ok ()) (hp : s.pc.toNat < 4095)
    (h : s.EntriesInRange) : (act i s).EntriesInRange := by
  cases i
  case ret => exact fun k hk => h k (Nat.lt_of_lt_of_le hk (Nat.sub_le _ 1))
  case call nnn =>
    have hsp := ownCheck_call_ok.1 hc
    rw [act_call nnn hsp]
    intro k hk
    by_cases hks : s.sp.val = k.val
    · simp [hks, State.npc]; omega
    · have hlt : k.val < s.sp.val := by simp at hk; omega
      simpa [hks] using h k hlt
  all_goals exact h

/-- Nothing an instruction puts in `pc` is above 0x10FE (R24): the largest is `JP V0` of 0xFFF and 0xFF. -/
theorem act_pc_le {i : Instr} {s : State} (hc : ownCheck i s = .ok ()) (hp : s.pc.toNat < 4095)
    (h : s.EntriesInRange) : (act i s).pc.toNat ≤ 0x10FE := by
  have hadd := Word.toNat_add_two hp
  have hadvance : s.npc.toNat ≤ 0x10FE := by rw [State.npc]; omega
  have hskip (c : Bool) : (s.skipIf c).pc.toNat ≤ 0x10FE := by
    rw [State.skipIf_pc]
    split
    · rw [Word.toNat_add_four hp]; omega
    · omega
  cases i
  case ret =>
    have hsp := ownCheck_ret_ok.1 hc
    have := (h ⟨s.sp.val - 1, by omega⟩ (by simp; omega)).2
    simp [act] at this ⊢; omega
  case jp nnn =>
    have := nnn.isLt
    change (addrOperand nnn).toNat ≤ 0x10FE
    rw [addrOperand_toNat]; omega
  case call nnn =>
    have := nnn.isLt
    rw [act_call nnn (ownCheck_call_ok.1 hc), State.setPc_pc, addrOperand_toNat]; omega
  case jpV0 nnn =>
    have := nnn.isLt; have := (s.reg 0).isLt
    change (addrOperand nnn + zext16 (s.reg 0)).toNat ≤ 0x10FE
    rw [addrOperand_add_zext16_toNat]; omega
  case ldVxK x => exact Nat.le_trans (Nat.le_of_lt hp) (by omega)
  case seVxKk | sneVxKk | seVxVy | sneVxVy | skpVx | sknpVx => exact hskip _
  all_goals exact hadvance

/-! ### The invariant is kept -/

namespace State.Inv

variable {s t : State}

/-- The invariant speaks of memory, stack, program counter, status and wait register alone. -/
protected theorem congr (h : s.Inv) (hmem : t.mem = s.mem) (hstack : t.stack = s.stack) (hsp : t.sp = s.sp)
    (hpc : t.pc = s.pc) (hmode : t.mode = s.mode) (herr : t.err = s.err) (hwait : t.waitx = s.waitx) : t.Inv := by
  cases s; cases t
  cases hmem; cases hstack; cases hsp; cases hpc; cases hmode; cases herr; cases hwait
  obtain ⟨memory, stackEntries, pcBound, recordIffHalted, record, waiting⟩ := h
  exact ⟨memory, stackEntries, pcBound, recordIffHalted, record, waiting⟩

protected theorem deliverTicks (h : s.Inv) : s.deliverTicks.Inv := h.congr rfl rfl rfl rfl rfl rfl rfl

protected theorem presentNext (h : s.Inv) : s.presentNext.Inv := by apply h.congr <;> simp

/-- A machine that is not halted has no error record (R33). -/
theorem err_eq_none (h : s.Inv) (hm : s.mode ≠ .halted) : s.err = none := by
  simpa [h.recordIffHalted] using hm

/-- A state that is not halted and not waiting has only the first three clauses to meet. -/
theorem of_ready (hm : s.mode = .ready) (he : s.err = none) (hmem : s.mem.wf = true) (hstack : s.EntriesInRange)
    (hpc : s.pc.toNat ≤ 0x10FE) : s.Inv where
  memory := hmem
  stackEntries := hstack
  pcBound := hpc
  recordIffHalted := by simp [hm, he]
  record := by simp [he]
  waiting := by simp [hm]

/-- A fatal error whose record is true keeps the invariant (R221, R224). -/
protected theorem raise {e : FatalError} (h : s.Inv) (he : RecordTrue s e) : (raise e s).Inv where
  memory := h.memory
  stackEntries := h.stackEntries
  pcBound := h.pcBound
  recordIffHalted := by simp
  record := by rintro _ ⟨⟩; exact he
  waiting := nofun

/-- `LD Vx, K` waits at its own word (R202). -/
protected theorem enterWait {x : RegIx} (h : s.Inv) (hm : s.mode = .ready) (hf : s.Fetches (.ldVxK x)) :
    (s.enterWait x).Inv where
  memory := h.memory
  stackEntries := h.stackEntries
  pcBound := h.pcBound
  recordIffHalted := by simp [h.err_eq_none (by simp [hm])]
  record := by simp [h.err_eq_none (by simp [hm])]
  waiting := fun _ => hf

/-- A poll of the key wait stays, or completes the instruction and goes on at `pc + 2`. -/
protected theorem awaitCycle (h : s.Inv) (hm : s.mode = .awaitingKey) : (awaitCycle s).Inv := by
  cases hk : s.input.key with
  | none => rwa [awaitCycle_none hk]
  | some k =>
    rw [awaitCycle_some hk]
    have hp := (h.waiting hm).pc_lt
    have hpc : (s.pc + 2).toNat ≤ 0x10FE := by rw [Word.toNat_add_two hp]; omega
    exact of_ready rfl (h.err_eq_none (by simp [hm])) h.memory h.stackEntries hpc

/-- An instruction executed where it was fetched keeps the invariant. -/
protected theorem exec {i : Instr} (h : s.Inv) (hm : s.mode = .ready) (hf : s.Fetches i) (ht : exec i s = .next t) :
    t.Inv := by
  rcases exec_next_cases ht with ⟨e, hc, rfl⟩ | ⟨hc, rfl⟩
  · exact h.raise (recordTrue_of_check_error hc hf)
  · by_cases hk : ∃ x, i = .ldVxK x
    · obtain ⟨x, rfl⟩ := hk
      exact h.enterWait hm hf
    · have hmode : (act i s).mode = .ready := (act_mode (not_exists.1 hk)).trans hm
      have herr : (act i s).err = none := (act_err i s).trans (h.err_eq_none (by simp [hm]))
      exact of_ready hmode herr (act_mem_wf hc h.memory) (act_entriesInRange hc hf.pc_lt h.stackEntries)
        (act_pc_le hc hf.pc_lt h.stackEntries)

protected theorem readyCycle (h : s.Inv) (hm : s.mode = .ready) (ht : readyCycle s = .next t) : t.Inv := by
  rcases readyCycle_cases s with ⟨-, hr⟩ | ⟨w, r, hf, hd, hr⟩ | ⟨w, i, hf, hd, hr⟩ <;> rw [hr] at ht
  · cases ht; exact h.raise (recordTrue_rangeError s s.pc.isLt)
  · cases ht; exact h.raise (recordTrue_decodeError hf hd)
  · exact h.exec hm ⟨w, hf, hd⟩ ht

protected theorem step (h : s.Inv) (ht : step s = .next t) : t.Inv := by
  obtain ⟨u, rfl, ⟨-, rfl⟩ | ⟨hm, rfl⟩ | ⟨hm, hu⟩⟩ := step_cases ht
  · exact h.deliverTicks.presentNext
  · exact (h.deliverTicks.awaitCycle hm).presentNext
  · exact (h.deliverTicks.readyCycle hm hu).presentNext

end State.Inv

/-- Every step of every state answers a next state (log 14). -/
theorem step_answers_next (s : State) : ∃ t, step s = .next t := by
  cases hm : s.mode with
  | halted => exact ⟨_, step_halted hm⟩
  | awaitingKey => exact ⟨_, step_awaiting hm⟩
  | ready =>
    rw [step_ready hm]
    rcases readyCycle_cases s.deliverTicks with ⟨-, hr⟩ | ⟨w, r, -, -, hr⟩ | ⟨w, i, -, -, hr⟩
    · rw [hr]; exact ⟨_, rfl⟩
    · rw [hr]; exact ⟨_, rfl⟩
    · obtain ⟨t, ht⟩ := exec_answers_next i s.deliverTicks
      rw [hr, ht]; exact ⟨_, rfl⟩

/-- A property of states that every step keeps holds after any number of steps, and no run stops. -/
theorem run_induction {P : State → Prop} (hstep : ∀ s t, P s → step s = .next t → P t) (k : Nat) {s : State}
    (h : P s) : ∃ t, core.run k s = .next t ∧ P t := by
  induction k generalizing s with
  | zero => exact ⟨s, rfl, h⟩
  | succ k ih =>
    obtain ⟨u, hu⟩ := step_answers_next s
    rw [run_succ k hu]
    exact ih (hstep s u h hu)

/-! ### The obligations on the invariant -/

/-- Settles O58, by the cases of a step: a halted machine, a poll of the key wait, a `Ready` cycle. -/
theorem stepKeepsTheInvariant : Obligations.StepKeepsTheInvariant := fun _ _ => State.Inv.step

/-- Settles O59, by induction on the number of steps. -/
theorem runsKeepTheInvariant : Obligations.RunsKeepTheInvariant := fun k _ h =>
  run_induction stepKeepsTheInvariant k h

/-- Settles O57: the reset state is `Ready` at 0x200 with an empty memory, an empty stack and no error record. -/
theorem resetMeetsTheInvariant : Obligations.ResetMeetsTheInvariant :=
  State.Inv.of_ready rfl rfl Memory.wf_reset (fun k hk => absurd hk (Nat.not_lt_zero k.val)) (by decide)

/-- Settles O12, by the cases of a step; in `Ready` by what the executed instruction does to `MODE`. -/
theorem runStateTransitions : Obligations.RunStateTransitions := by
  intro s t h
  obtain ⟨u, rfl, ⟨hm, rfl⟩ | ⟨hm, rfl⟩ | ⟨hm, hu⟩⟩ := step_cases h
  · simp [hm]
  · refine ⟨by simp [hm], fun _ => ⟨fun hk => ?_, fun hk => ?_⟩, by simp [hm]⟩
    · rw [awaitCycle_none (by simpa using hk)]; simpa using hm
    · obtain ⟨k, hk⟩ := Option.ne_none_iff_exists'.1 hk
      rw [awaitCycle_some (s := s.deliverTicks) (by simpa using hk)]; simp
  · refine ⟨by simp [hm], by simp [hm], fun _ ht => ?_⟩
    rw [State.presentNext_mode] at ht
    rcases readyCycle_cases s.deliverTicks with ⟨-, hr⟩ | ⟨w, r, -, -, hr⟩ | ⟨w, i, hf, hd, hr⟩ <;>
      rw [hr] at hu
    · cases hu; cases ht
    · cases hu; cases ht
    · rcases exec_cases hu (by simpa using hm) with ⟨e, rfl⟩ | ⟨hready, -⟩ | ⟨x, rfl, rfl⟩
      · cases ht
      · rw [hready] at ht; cases ht
      · exact ⟨x, ⟨w, hf, hd⟩, by simp⟩

end Sys2Proof.Machine
end

section
/-! SUPPORT. What an instruction writes (R36), and what it does not read: an instruction run from a state that differs
in a piece it does not read makes the same check and acts the same. -/

namespace Sys2Proof.Machine

/-! ### What is written -/

/-- R36, column "written by", for an instruction whose check has passed. -/
theorem act_sameBut (i : Instr) (s : State) : SameBut (writtenPieces i) s (act i s) := by
  have start := SameBut.refl (writtenPieces i) s
  cases i
  case cls => exact (start.setFb (by simp [writtenPieces]) _).advance (by simp [writtenPieces])
  case ret | call nnn =>
    exact (start.setStack (by simp [writtenPieces]) _ _).setPc (by simp [writtenPieces]) _
  case jp | jpV0 => exact start.setPc (by simp [writtenPieces]) _
  case seVxKk | sneVxKk | seVxVy | sneVxVy | skpVx | sknpVx => exact start.skipIf (by simp [writtenPieces]) _
  case ldVxKk | addVxKk | rndVxKk | ldVxDT | ldVxVy | orVxVy | andVxVy | xorVxVy =>
    exact (start.setReg (by simp [writtenPieces]) _).advance (by simp [writtenPieces])
  case addVxVy | subVxVy | shrVx | subnVxVy | shlVx =>
    exact (start.setRegFlag (by simp [writtenPieces]) (by simp [writtenPieces]) _).advance (by simp [writtenPieces])
  case ldI | addIVx | ldFVx => exact (start.setI (by simp [writtenPieces]) _).advance (by simp [writtenPieces])
  case drw =>
    exact ((start.setFb (by simp [writtenPieces]) _).setReg (by simp [writtenPieces]) _).advance
      (by simp [writtenPieces])
  case ldVxK x => exact start.enterWait (by simp [writtenPieces]) (by simp [writtenPieces]) x
  case ldDTVx => exact (start.setDt (by simp [writtenPieces]) _).advance (by simp [writtenPieces])
  case ldSTVx => exact (start.setSt (by simp [writtenPieces]) _).advance (by simp [writtenPieces])
  case ldBVx => exact (start.setMem (by simp [writtenPieces]) _).advance (by simp [writtenPieces])
  case ldMemVx =>
    exact ((start.setMem (by simp [writtenPieces]) _).setI (by simp [writtenPieces]) _).advance
      (by simp [writtenPieces])
  case ldVxMem x =>
    refine ((start.setV fun k hk => ?_).setI (by simp [writtenPieces]) _).advance (by simp [writtenPieces])
    have hkx : x.val < k.val := by simpa [writtenPieces, mem_piecesTo] using hk
    have hout : ¬ (0 ≤ k.val ∧ k.val - 0 < (s.mem.readMany (s.effAddr 0) (x.val + 1)).length) := by
      rw [Memory.length_readMany, Nat.sub_zero]; omega
    exact (getElem_loadRegs _ _ 0 k.val k.isLt).trans (dif_neg hout)

/-- An instruction whose check can fail is listed as a writer of `MODE` and `ERR`. -/
theorem status_mem_writtenPieces {i : Instr} {s : State} {e : FatalError} (h : ownCheck i s = .error e) :
    .status ∈ writtenPieces i := by
  cases i
  case ret | call | drw | ldBVx | ldMemVx | ldVxMem => simp [writtenPieces]
  all_goals cases h

/-- Settles O51: a fatal error writes `MODE` and `ERR`, an instruction that acts writes its pieces. -/
theorem instructionsWriteOnlyTheirPieces : Obligations.InstructionsWriteOnlyTheirPieces := by
  intro i s t h
  rcases exec_next_cases h with ⟨e, hc, rfl⟩ | ⟨-, rfl⟩
  · exact (SameBut.refl _ s).raise (status_mem_writtenPieces hc) e
  · exact act_sameBut i s

/-! ### What is not read -/

/-- Two runs of an instruction from states with the same `I` and `SP`: both are the same fatal error, or both act. -/
theorem exec_two_runs {i : Instr} {s s' t : State} (h : exec i s = .next t) (hi : s'.i = s.i) (hsp : s'.sp = s.sp) :
    (∃ e, t = raise e s ∧ exec i s' = .next (raise e s')) ∨
    (ownCheck i s = .ok () ∧ t = act i s ∧ exec i s' = .next (act i s')) := by
  have hcheck := ownCheck_congr i hi hsp
  rcases exec_next_cases h with ⟨e, hc, rfl⟩ | ⟨hc, rfl⟩
  · exact .inl ⟨e, rfl, exec_of_check_error (hcheck.trans hc)⟩
  · exact .inr ⟨hc, rfl, exec_of_check_ok (hcheck.trans hc)⟩

/-- No instruction's meaning mentions `ST` but to write it (R28). -/
theorem act_setSt (i : Instr) (s : State) (b : Byte) : (act i (s.setSt b)).setSt 0 = (act i s).setSt 0 := by
  cases i <;> rfl

/-- Settles O52: the fatal errors and the actions alike keep what `ST` holds apart. -/
theorem soundTimerIsNeverRead : Obligations.SoundTimerIsNeverRead := by
  intro i s t b h
  rcases exec_two_runs (s' := s.setSt b) h rfl rfl with ⟨e, rfl, hu⟩ | ⟨-, rfl, hu⟩
  · exact ⟨_, hu, rfl⟩
  · exact ⟨_, hu, act_setSt i s b⟩

/-- No meaning but that of `DRW` mentions the display buffer but to write it (R29). -/
theorem act_setFb {i : Instr} (hi : ∀ x y n, i ≠ .drw x y n) (s : State) (fb : Display) :
    (act i (s.setFb fb)).setFb Display.clear = (act i s).setFb Display.clear := by
  cases i
  case drw x y n => exact absurd rfl (hi x y n)
  all_goals rfl

/-- Settles O54, as for the sound timer. -/
theorem displayIsReadByDrawAlone : Obligations.DisplayIsReadByDrawAlone := by
  intro i s t fb hi h
  rcases exec_two_runs (s' := s.setFb fb) h rfl rfl with ⟨e, rfl, hu⟩ | ⟨-, rfl, hu⟩
  · exact ⟨_, hu, rfl⟩
  · exact ⟨_, hu, act_setFb hi s fb⟩

/-! ### Vacant stack slots (R25) -/

/-- The state with the value of slot `k` replaced. -/
def State.setSlot (s : State) (k : Fin 16) (w : Word) : State := { s with stack := s.stack.set k w }

/-- Replacing a vacant slot leaves the entries below as they are. -/
theorem getElem_set_vacant (stack : Vector Word 16) {n : Nat} {j k : Fin 16} (w : Word) (hk : n ≤ k.val)
    (hj : j.val < n) : (stack.set k w)[j] = stack[j] :=
  Vector.getElem_set_ne k.isLt j.isLt (by omega)

/-- An instruction acts the same, but for the stack's slots, whatever a vacant slot holds: `RET` alone reads a slot,
and that one is below `SP`. -/
theorem act_setSlot {i : Instr} {s : State} {k : Fin 16} (w : Word) (hc : ownCheck i s = .ok ())
    (hk : s.sp.val ≤ k.val) : { act i (s.setSlot k w) with stack := (act i s).stack } = act i s := by
  cases i
  case ret =>
    have hsp := ownCheck_ret_ok.1 hc
    have hpopped := getElem_set_vacant s.stack (j := ⟨s.sp.val - 1, by omega⟩) w hk (by simp; omega)
    exact congrArg (act .ret s).setPc hpopped
  all_goals rfl

/-- The live entries afterwards do not depend on a vacant slot: `CALL` fills one with `pc + 2`. -/
theorem act_setSlot_live {i : Instr} {s : State} {j k : Fin 16} (w : Word) (hc : ownCheck i s = .ok ())
    (hk : s.sp.val ≤ k.val) (hj : j.val < (act i s).sp.val) :
    (act i (s.setSlot k w)).stack[j] = (act i s).stack[j] := by
  cases i
  case ret => exact getElem_set_vacant s.stack w hk (Nat.lt_of_lt_of_le hj (Nat.sub_le _ 1))
  case call nnn =>
    have hsp := ownCheck_call_ok.1 hc
    rw [act_call nnn hsp] at hj ⊢
    rw [act_call (s := s.setSlot k w) nnn hsp]
    by_cases hjs : s.sp.val = j.val
    · simp [State.setSlot, hjs, State.npc]
    · have hlt : j.val < s.sp.val := by simp at hj; omega
      simpa [State.setSlot, hjs] using getElem_set_vacant s.stack w hk hlt
  all_goals exact getElem_set_vacant s.stack w hk hj

/-- Settles O53: a fatal error leaves the stack as it is, and an action leaves the live entries the same. -/
theorem vacantSlotsAreUnobservable : Obligations.VacantSlotsAreUnobservable := by
  intro i s t k w hk h
  rcases exec_two_runs (s' := s.setSlot k w) h rfl rfl with ⟨e, rfl, hu⟩ | ⟨hc, rfl, hu⟩
  · exact ⟨_, hu, rfl, fun j hj => getElem_set_vacant s.stack w hk hj⟩
  · exact ⟨_, hu, act_setSlot w hc hk, fun j hj => act_setSlot_live w hc hk hj⟩

end Sys2Proof.Machine
end

section
/-! SUPPORT. The state's parts one by one: the flag register (R21), the memory's one form (R30), the call stack and its
two instructions (R25, R26), and the reset table (R35). -/

namespace Sys2Proof.Machine

/-! ### The flag (R21) -/

theorem flagByte_eq_zero_or_one (c : Bool) : flagByte c = 0 ∨ flagByte c = 1 := by
  cases c
  · exact .inl rfl
  · exact .inr rfl

/-- The flag is written last, so `VF` holds it also where `VF` is the destination. -/
theorem State.setRegFlag_vf (s : State) (x : RegIx) (r : Byte × Bool) : (s.setRegFlag x r).reg 15 = flagByte r.2 :=
  (State.reg_setRegFlag s x 15 r).trans (if_pos rfl)

/-- Settles O28: what stands in `VF` is the flag that the instruction wrote last; only a `DRW` that raises writes
none. -/
theorem flagResultIsZeroOrOne : Obligations.FlagResultIsZeroOrOne := by
  intro x y n s t i hi h hm
  rcases exec_next_cases h with ⟨e, -, rfl⟩ | ⟨-, rfl⟩
  · exact absurd rfl hm
  · suffices hflag : ∃ c, (act i s).reg 15 = flagByte c by
      obtain ⟨c, hc⟩ := hflag
      rw [hc]; exact flagByte_eq_zero_or_one c
    simp only [List.mem_cons, List.not_mem_nil, or_false] at hi
    rcases hi with rfl | rfl | rfl | rfl | rfl | rfl
    case inr.inr.inr.inr.inr => exact ⟨_, State.reg_setReg_self _ 15 _⟩
    all_goals exact ⟨_, State.setRegFlag_vf s x _⟩

/-! ### The memory (R30) -/

theorem Memory.read_cons_self (a : Nat) (x : Byte) (m : Memory) : Memory.read ((a, x) :: m) a = x := if_pos rfl

theorem Memory.read_cons_ne {a b : Nat} (x : Byte) (m : Memory) (h : b ≠ a) :
    Memory.read ((a, x) :: m) b = m.read b := if_neg (Ne.symm h)

/-- Below its first address `b` a canonical memory reads 0x00, so it cannot read alike, at `a`, one that lists a byte
there, unless `b` is at most `a`. -/
theorem Memory.head_le_of_read_eq {lo lo' a b : Nat} {x y : Byte} {m m' : Memory}
    (h : Memory.wfFrom lo ((a, x) :: m) = true) (h' : Memory.wfFrom lo' ((b, y) :: m') = true)
    (heq : Memory.read ((a, x) :: m) a = Memory.read ((b, y) :: m') a) : b ≤ a := by
  obtain ⟨-, -, hx, -⟩ := Memory.wfFrom_cons.1 h
  obtain ⟨-, hb⟩ := Memory.wfFrom_cons.1 h'
  by_contra hab
  rw [Memory.read_cons_self, Memory.read_below (Memory.wfFrom_cons.2 ⟨Nat.le_refl b, hb⟩) (by omega)] at heq
  exact hx heq

/-- Canonical memories that read alike are equal: their first entries are, and so, by induction, the rest. -/
theorem Memory.eq_of_read_eq {lo : Nat} {m m' : Memory} (h : Memory.wfFrom lo m = true)
    (h' : Memory.wfFrom lo m' = true) (heq : ∀ a, m.read a = m'.read a) : m = m' := by
  induction m generalizing lo m' with
  | nil =>
    cases m' with
    | nil => rfl
    | cons c m' =>
      obtain ⟨b, y⟩ := c
      obtain ⟨-, -, hy, -⟩ := Memory.wfFrom_cons.1 h'
      exact absurd ((heq b).trans (Memory.read_cons_self b y m')).symm hy
  | cons c m ih =>
    obtain ⟨a, x⟩ := c
    obtain ⟨-, -, hx, hm⟩ := Memory.wfFrom_cons.1 h
    cases m' with
    | nil => exact absurd ((Memory.read_cons_self a x m).symm.trans (heq a)) hx
    | cons c' m' =>
      obtain ⟨b, y⟩ := c'
      obtain ⟨-, -, -, hm'⟩ := Memory.wfFrom_cons.1 h'
      obtain rfl : a = b :=
        Nat.le_antisymm (Memory.head_le_of_read_eq h' h (heq b).symm) (Memory.head_le_of_read_eq h h' (heq a))
      obtain rfl : x = y := by simpa [Memory.read_cons_self] using heq a
      rw [ih hm hm' fun c => ?_]
      by_cases hc : c ≤ a
      · rw [Memory.read_below hm (by omega), Memory.read_below hm' (by omega)]
      · simpa [Memory.read_cons_ne, show c ≠ a by omega] using heq c

/-- Settles O56: the canonical form from address 0 up. -/
theorem canonicalMemoriesThatReadAlikeAreEqual : Obligations.CanonicalMemoriesThatReadAlikeAreEqual :=
  fun _ _ => Memory.eq_of_read_eq

/-! ### The call stack (R25, R26) -/

/-- The state `push` answers pops to the pushed value, at the old depth. -/
theorem pop_pushed (s : State) (w : Word) (h : s.sp.val < 16) :
    pop { s with stack := s.stack.set s.sp.val w h, sp := ⟨s.sp.val + 1, by omega⟩ } =
      .ok (w, { s with stack := s.stack.set s.sp.val w h }) := by
  rw [pop_ok (Nat.succ_pos _)]
  simp

/-- Settles O45, by the two answers of `push` and the two of `pop`. -/
theorem pushThenPopReturnsTheValue : Obligations.PushThenPopReturnsTheValue := by
  intro s w
  refine ⟨fun h => ?_, push_overflow w, pop_underflow⟩
  exact ⟨_, _, push_ok w h, rfl, pop_pushed s w h, rfl,
    fun k hk => Vector.getElem_set_ne h k.isLt (Nat.ne_of_gt hk)⟩

/-- Settles O17, by the two answers of `RET`. -/
theorem returnPopsOrUnderflows : Obligations.ReturnPopsOrUnderflows := by
  intro s
  refine ⟨rfl, fun h => ?_, fun h => ?_⟩
  · exact ⟨_, exec_ret_ok h, rfl, rfl, fun _ => rfl,
      ((SameBut.refl _ s).setStack (by simp) _ _).setPc (by simp) _⟩
  · exact ⟨_, exec_ret_underflow h, rfl, rfl, (SameBut.refl _ s).raise (by simp) _⟩

/-- Settles O18, by the two answers of `CALL`. -/
theorem callPushesOrOverflows : Obligations.CallPushesOrOverflows := by
  intro nnn s
  refine ⟨formatA_toNat 2 nnn, fun h => ?_, fun h => ?_⟩
  · refine ⟨_, exec_call_ok nnn h, addrOperand_toNat nnn, rfl, ?_, fun k hk => ?_,
      ((SameBut.refl _ s).setStack (by simp) _ _).setPc (by simp) _⟩
    · exact Vector.getElem_set_self h
    · exact Vector.getElem_set_ne h k.isLt (Ne.symm hk)
  · exact ⟨_, exec_call_overflow nnn h, rfl, rfl, (SameBut.refl _ s).raise (by simp) _⟩

/-! ### Reset (R35) -/

/-- The reset event leaves CORE as `State.reset` has it (R260). -/
theorem hostReset_sameCore (s : State) : SameCoreBut [] State.reset s.hostReset := SameCoreBut.refl [] State.reset

/-- Settles O46: the rows of the table, read off `State.reset`. -/
theorem resetLeavesTheResetTable : Obligations.ResetLeavesTheResetTable := by
  intro s
  have hreg (k : RegIx) : State.reset.reg k = 0 := by simp [State.reg, State.reset]
  have hslot (k : Fin 16) : State.reset.stack[k] = 0 := by simp [State.reset]
  exact ⟨hreg, rfl, rfl, rfl, hslot, rfl, rfl, Display.pixel_clear, fun _ => rfl, rfl, rfl, rfl, rfl,
    hostReset_sameCore s, rfl, rfl, rfl, rfl⟩

end Sys2Proof.Machine
end

section
/-! SUPPORT. Memory accesses (R62 to R69): the range check and the checked reads and writes, the bulk transfers between
registers and memory (R174, R175), and the host's `load` and boot steps (R73, R262). -/

namespace Sys2Proof.Machine

/-! ### The range check and the checked accesses (R62 to R68) -/

/-- Settles O35, by the two answers of the check; an access that fails has its first address above 4095 at its byte
`4096 - lo` (byte 0 where `lo` itself is above). -/
theorem rangeCheckReportsTheLowestAddress : Obligations.RangeCheckReportsTheLowestAddress := by
  intro lo count
  rcases checkRange_cases lo count with ⟨hfits, hc⟩ | ⟨⟨hne, hout⟩, hc⟩ <;> rw [hc]
  · exact ⟨⟨fun _ k hk => by omega, fun _ => rfl⟩, nofun⟩
  · refine ⟨⟨nofun, fun hall => ?_⟩, ?_⟩
    · have := hall (count - 1) (by omega)
      omega
    · rintro _ ⟨⟩
      have hlowest : lo + (4096 - lo) = max lo 4096 := by omega
      exact ⟨4096 - lo, by omega, by rw [hlowest]; rfl, by omega, fun j hj => by omega⟩

theorem memRead_ok {m : Memory} {a : Nat} (h : a ≤ 4095) : memRead m a = .ok (m.read a) := if_neg (Nat.not_lt.2 h)

theorem memRead_error {m : Memory} {a : Nat} (h : a > 4095) : memRead m a = .error (rangeError a) := if_pos h

theorem memWrite_ok {m : Memory} {a : Nat} {x : Byte} (h : a ≤ 4095) : memWrite m a x = .ok (m.write a x) :=
  if_neg (Nat.not_lt.2 h)

theorem memWrite_error {m : Memory} {a : Nat} {x : Byte} (h : a > 4095) : memWrite m a x = .error (rangeError a) :=
  if_pos h

/-- Settles O36, by the two answers of each access and the law of a read after a write. -/
theorem byteReadsAndWrites : Obligations.ByteReadsAndWrites := by
  intro m a x hwf
  refine ⟨fun h => ⟨memRead_error h, memWrite_error h⟩, fun h => ⟨memRead_ok h, _, memWrite_ok h, ?_, ?_, ?_⟩⟩
  · exact Memory.wf_write hwf (Nat.lt_succ_of_le h) x
  · rw [Memory.read_write hwf, if_pos rfl]
  · intro b hb
    rw [Memory.read_write hwf, if_neg hb]

theorem memReadWord_ok {m : Memory} {a : Nat} (h : a < 4095) :
    memReadWord m a = .ok (wordOfBytes (m.read a) (m.read (a + 1))) := by
  rw [memReadWord, if_neg (by omega), if_neg (by omega)]

theorem memReadWord_error {m : Memory} {a : Nat} (h : a > 4095) : memReadWord m a = .error (rangeError a) := if_pos h

theorem memReadWord_error_straddling (m : Memory) : memReadWord m 4095 = .error (rangeError 4096) := rfl

/-- Settles O8, by the three answers of the two-byte read. -/
theorem fetchIsBigEndianAndChecked : Obligations.FetchIsBigEndianAndChecked := by
  intro m a
  refine ⟨memReadWord_error, ?_, fun h => ⟨_, memReadWord_ok h, wordOfBytes_toNat _ _⟩⟩
  rintro rfl
  exact memReadWord_error_straddling m

/-! ### Block stores, read back -/

/-- Byte `k` of a block just stored. -/
theorem Memory.read_writeMany_inside {m : Memory} (h : m.wf = true) {bytes : List Byte} {a : Nat}
    (ha : a + bytes.length ≤ 4096) {k : Nat} (hk : k < bytes.length) : (m.writeMany a bytes).read (a + k) = bytes[k] := by
  rw [Memory.read_writeMany h bytes ha, dif_pos ⟨Nat.le_add_right a k, by omega⟩]
  simp

/-- A block store leaves every address before and after the block as it was. -/
theorem Memory.read_writeMany_outside {m : Memory} (h : m.wf = true) {bytes : List Byte} {a : Nat}
    (ha : a + bytes.length ≤ 4096) {b : Nat} (hb : b < a ∨ a + bytes.length ≤ b) :
    (m.writeMany a bytes).read b = m.read b := by
  rw [Memory.read_writeMany h bytes ha, dif_neg (by omega)]

/-! ### Bulk transfers (R174, R175) -/

theorem State.effAddr_eq (s : State) (k : Nat) : s.effAddr k = s.i.toNat + k := rfl

/-- `I + x + 1` does not wrap where the transfer is in range. -/
theorem State.iAfterBulk_toNat {s : State} {x : RegIx} (h : s.effAddr x.val ≤ 4095) :
    (s.iAfterBulk x).toNat = s.i.toNat + x.val + 1 := by
  rw [State.effAddr_eq] at h
  rw [State.iAfterBulk, BitVec.toNat_ofNat, Nat.mod_eq_of_lt (by omega)]

/-- The register file after `V[0]` .. `V[x]` are loaded from `a` up. -/
theorem getElem_loadRegs_readMany (v : Vector Byte 16) (m : Memory) (a : Nat) (x k : RegIx) :
    (loadRegs v 0 (m.readMany a (x.val + 1)))[k] = if k ≤ x then m.read (a + k.val) else v[k] := by
  refine (getElem_loadRegs _ v 0 k.val k.isLt).trans ?_
  by_cases hk : k ≤ x
  · have hlt : k.val < x.val + 1 := Nat.lt_succ_of_le hk
    simp [hk, hlt, Memory.getElem_readMany]
  · have hge : ¬ k.val < x.val + 1 := fun h => hk (Nat.le_of_lt_succ h)
    simp [hk, hge]

/-- Settles O32, by the two answers of the instruction. -/
theorem bulkStore : Obligations.BulkStore := by
  intro x s
  refine ⟨(formatI_toNat 0xF x 0x55).trans (Nat.add_right_comm _ _ _), fun hwf hr => ?_, fun hr => ?_⟩
  · have hlen : s.effAddr 0 + (s.regsTo x).length ≤ 4096 := by
      rw [length_regsTo]; exact Nat.succ_le_succ hr
    refine ⟨_, exec_ldMemVx_ok x (Nat.succ_le_succ hr), fun k hk => ?_, fun a ha => ?_, State.iAfterBulk_toNat hr, rfl,
      (((SameBut.refl _ s).setMem (by simp) _).setI (by simp) _).advance (by simp)⟩
    · have hlt : k.val < (s.regsTo x).length := by rw [length_regsTo]; exact Nat.lt_succ_of_le hk
      exact (Memory.read_writeMany_inside hwf hlen hlt).trans (getElem_regsTo s x k.val hlt)
    · have hout : a < s.effAddr 0 ∨ s.effAddr 0 + (s.regsTo x).length ≤ a := by rwa [length_regsTo]
      exact Memory.read_writeMany_outside hwf hlen hout
  · exact ⟨_, exec_ldMemVx_error x (Nat.succ_lt_succ hr), rfl, rfl, (SameBut.refl _ s).raise (by simp) _⟩

/-- Settles O33, by the two answers of the instruction. -/
theorem bulkLoad : Obligations.BulkLoad := by
  intro x s
  refine ⟨(formatI_toNat 0xF x 0x65).trans (Nat.add_right_comm _ _ _), fun hr => ?_, fun hr => ?_⟩
  · have hload := getElem_loadRegs_readMany s.v s.mem (s.effAddr 0) x
    refine ⟨_, exec_ldVxMem_ok x (Nat.succ_le_succ hr), fun k hk => (hload k).trans (if_pos hk),
      State.iAfterBulk_toNat hr, rfl, ?_⟩
    refine (((SameBut.refl _ s).setV fun k hk => ?_).setI (by simp) _).advance (by simp)
    have hkx : ¬ k ≤ x := by simpa [mem_piecesTo] using hk
    exact (hload k).trans (if_neg hkx)
  · exact ⟨_, exec_ldVxMem_error x (Nat.succ_lt_succ hr), rfl, rfl, (SameBut.refl _ s).raise (by simp) _⟩

/-- Settles O34: the fetch reads memory as it stands, so it finds the two registers that the store put there. -/
theorem storeIsSeenByTheNextFetch : Obligations.StoreIsSeenByTheNextFetch := by
  intro x s t k hk hwf hr ht hpc
  obtain ⟨-, hstore, -⟩ := bulkStore x s
  obtain ⟨u, hu, hread, -⟩ := hstore hwf hr
  obtain rfl : t = u := by rw [ht] at hu; cases hu; rfl
  have hlow : t.mem.read (s.effAddr k) = s.reg ⟨k, by omega⟩ := hread ⟨k, by omega⟩ (Nat.le_of_succ_le hk)
  have hhigh : t.mem.read (s.effAddr k + 1) = s.reg ⟨k + 1, by omega⟩ := hread ⟨k + 1, by omega⟩ hk
  have hfetchable : t.pc.toNat < 4095 := by rw [State.effAddr_eq] at hr hpc; omega
  rw [fetch_ok hfetchable, hpc, hlow, hhigh]

/-! ### The host's load and boot (R73, R262) -/

theorem step_started {s t : State} (h : step s = .next t) : t.started = true := by
  obtain ⟨u, rfl, -⟩ := step_cases h
  exact State.presentNext_started u

/-- Settles O48, by the three answers of `load`; a step closes its window. -/
theorem loadWritesItsBytesOrNothing : Obligations.LoadWritesItsBytesOrNothing := by
  intro s bytes base hwf
  refine ⟨fun hs hfits => ?_, load_outOfRange, fun t ht => load_notPermitted (step_started ht)⟩
  exact ⟨_, load_ok hs hfits, fun k hk => Memory.read_writeMany_inside hwf hfits hk,
    fun a ha => Memory.read_writeMany_outside hwf hfits ha, (SameBut.refl _ s).setMem (by simp) _⟩

/-- The memory once the font is loaded. -/
def fontMemory : Memory := State.reset.mem.writeMany Config.fontBase Config.fontTable

theorem fontTable_fits : Config.fontBase + Config.fontTable.length ≤ 4096 := by decide

theorem fontMemory_wf : fontMemory.wf = true := Memory.wf_writeMany Memory.wf_reset _ fontTable_fits

/-- The font stands at 0 .. 79. -/
theorem fontMemory_read {k : Nat} (hk : k < Config.fontTable.length) : fontMemory.read k = Config.fontTable[k] := by
  simpa [fontMemory] using Memory.read_writeMany_inside Memory.wf_reset fontTable_fits hk

/-- Above the font there is only what reset leaves (R260). -/
theorem fontMemory_read_above {a : Nat} (ha : 80 ≤ a) : fontMemory.read a = 0 :=
  Memory.read_writeMany_outside Memory.wf_reset fontTable_fits (.inr ha)

/-- The boot steps with a program that fits: both loads are accepted. -/
theorem boot_ok (s : State) {program : List Byte} (h : Config.progBase + program.length ≤ 4096) :
    s.boot program = .loaded (s.hostReset.setMem (fontMemory.writeMany Config.progBase program)) := by
  have hfont : s.hostReset.load Config.fontTable Config.fontBase = .loaded (s.hostReset.setMem fontMemory) :=
    load_ok rfl fontTable_fits
  rw [State.boot, hfont]
  exact load_ok rfl h

/-- Settles O49: the program is stored above the font, and leaves it and the rest as they were. -/
theorem bootInstallsFontAndProgram : Obligations.BootInstallsFontAndProgram := by
  intro s program hlen
  have hfits : Config.progBase + program.length ≤ 4096 := by rw [Config.progBase]; omega
  refine ⟨_, boot_ok s hfits, rfl, rfl, fun k hk => ?_,
    fun k hk => Memory.read_writeMany_inside fontMemory_wf hfits hk, fun a hfont hprogram => ?_⟩
  · have hbelow : k < Config.progBase := Nat.lt_trans hk (by decide)
    exact (Memory.read_writeMany_outside fontMemory_wf hfits (.inl hbelow)).trans (fontMemory_read hk)
  · exact (Memory.read_writeMany_outside fontMemory_wf hfits hprogram).trans (fontMemory_read_above hfont)

/-! ### Every step answers (R94, R221, R226) -/

/-- Settles O11, by the run states and, in `Ready`, by what `exec` can answer. -/
theorem stepAlwaysAnswersNext : Obligations.StepAlwaysAnswersNext := step_answers_next

end Sys2Proof.Machine
end

section
/-! SUPPORT. The encoder and the decoder undo each other (R90 to R98): first the families in which more than the family
digit selects the instruction, then all of them. -/

namespace Sys2Proof

/-! ### Decoding an encoded instruction -/

theorem decode_formatR_family8 (x y : RegIx) (n : BitVec 4) :
    decode (formatR 0x8 x y n) = decodeFamily8 x y n.toFin := by simp [decode]

theorem decode_formatI_familyE (x : RegIx) (kk : Byte) :
    decode (formatI 0xE x kk) = decodeFamilyE x kk := by simp [decode]

theorem decode_formatI_familyF (x : RegIx) (kk : Byte) :
    decode (formatI 0xF x kk) = decodeFamilyF x kk := by simp [decode]

/-- The sprite's row count comes back where it fits its field (R93). -/
theorem decode_encode_drw (x y : RegIx) {n : Nat} (h : n ≤ 15) : decode (encode (.drw x y n)) = .ok (.drw x y n) := by
  have hn : n % 16 = n := Nat.mod_eq_of_lt (Nat.lt_succ_of_le h)
  simp [encode, decode, hn]

/-- Settles O1, by what selects the instruction: the whole word, a digit or byte besides the family, or the family
alone (with the last digit 0 in families 5 and 9). -/
theorem decodeEncodeRoundTrip : Obligations.DecodeEncodeRoundTrip := by
  intro i hwf
  cases i
  case cls | ret => rfl
  case drw x y n => exact decode_encode_drw x y (of_decide_eq_true hwf)
  case ldVxVy | orVxVy | andVxVy | xorVxVy | addVxVy | subVxVy | shrVx | subnVxVy | shlVx =>
    exact decode_formatR_family8 _ _ _
  case skpVx | sknpVx => exact decode_formatI_familyE _ _
  case ldVxDT | ldVxK | ldDTVx | ldSTVx | addIVx | ldFVx | ldBVx | ldMemVx | ldVxMem =>
    exact decode_formatI_familyF _ _
  all_goals simp [encode, decode]

/-- Settles O4: the two bytes join to the encoded word. -/
theorem decodeBytesReadsTwoBytes : Obligations.DecodeBytesReadsTwoBytes := by
  intro i rest hwf
  simp [encodeBytes, decodeBytes, decodeEncodeRoundTrip i hwf]

/-- Settles O5: the decoder is run on each word. -/
theorem writtenOutWordsDecode : Obligations.WrittenOutWordsDecode := by
  unfold Obligations.WrittenOutWordsDecode
  decide

/-! ### Encoding a decoded word -/

theorem encode_of_decodeFamily0 {w : Word} {i : Instr} (h : decodeFamily0 w = .ok i) :
    encode i = w ∧ i.wellFormed = true := by
  unfold decodeFamily0 at h
  split_ifs at h with h1 h2 <;> cases h
  · exact ⟨h1.symm, rfl⟩
  · exact ⟨h2.symm, rfl⟩

theorem encode_of_decodeFamily8 {x y n : Fin 16} {i : Instr} (h : decodeFamily8 x y n = .ok i) :
    ∃ d : BitVec 4, encode i = formatR 0x8 x y d ∧ n.val = d.toNat ∧ i.wellFormed = true := by
  unfold decodeFamily8 at h
  split at h <;> cases h
  all_goals exact ⟨_, rfl, ‹_›, rfl⟩

theorem encode_of_decodeFamilyE {x : RegIx} {kk : Byte} {i : Instr} (h : decodeFamilyE x kk = .ok i) :
    encode i = formatI 0xE x kk ∧ i.wellFormed = true := by
  unfold decodeFamilyE at h
  split_ifs at h <;> cases h <;> subst kk
  all_goals exact ⟨rfl, rfl⟩

theorem encode_of_decodeFamilyF {x : RegIx} {kk : Byte} {i : Instr} (h : decodeFamilyF x kk = .ok i) :
    encode i = formatI 0xF x kk ∧ i.wellFormed = true := by
  unfold decodeFamilyF at h
  split_ifs at h <;> cases h <;> subst kk
  all_goals exact ⟨rfl, rfl⟩

/-- Settles O2, by the word's family: a word is the format of its own fields. -/
theorem encodeDecodeRoundTrip : Obligations.EncodeDecodeRoundTrip := by
  intro w i h
  unfold decode at h
  split at h
  case h_1 => exact encode_of_decodeFamily0 h
  case h_9 hfam =>
    obtain ⟨d, he, hd, hwf⟩ := encode_of_decodeFamily8 h
    exact ⟨he.trans (formatR_fields hfam hd), hwf⟩
  case h_15 hfam =>
    obtain ⟨he, hwf⟩ := encode_of_decodeFamilyE h
    exact ⟨he.trans (formatI_fields hfam), hwf⟩
  case h_16 =>
    have hfam : (opFam w).val = 15 := by
      have := (opFam w).isLt
      simp only [imp_false] at *; omega
    obtain ⟨he, hwf⟩ := encode_of_decodeFamilyF h
    exact ⟨he.trans (formatI_fields hfam), hwf⟩
  case h_6 hfam | h_10 hfam =>
    split_ifs at h with hn
    cases h
    exact ⟨formatR_fields hfam (congrArg Fin.val hn), rfl⟩
  case h_14 hfam =>
    cases h
    refine ⟨formatR_fields hfam ?_, ?_⟩
    · simp
    · have := (opN w).isLt
      simp [Instr.wellFormed, Config.spriteMaxRows]; omega
  case h_2 hfam | h_3 hfam | h_11 hfam | h_12 hfam => cases h; exact ⟨formatA_fields hfam, rfl⟩
  all_goals next hfam => cases h; exact ⟨formatI_fields hfam, rfl⟩

/-! ### Legal words (R96) -/

/-- Settles O3, family by family. -/
theorem decodeAcceptsExactlyLegalWords : Obligations.DecodeAcceptsExactlyLegalWords := decodes_iff_legalWord

theorem decode_error_of_not_legalWord {w : Word} (h : legalWord w = false) : ∃ r, decode w = .error r := by
  cases hd : decode w with
  | error r => exact ⟨r, rfl⟩
  | ok i => rw [(decodes_iff_legalWord w).1 ⟨i, hd⟩] at h; cases h

end Sys2Proof
end

section
/-! SUPPORT. The cycle around an instruction (R94): what is fetched is what runs, and the two errors that come before
any instruction (R220, R223). -/

namespace Sys2Proof.Machine

/-! ### A step runs what is fetched -/

/-- A `Ready` step runs the instruction fetched at the program counter, in the state after the boundary's ticks. -/
theorem step_of_fetch {s : State} {w : Word} {i : Instr} (hm : s.mode = .ready) (hf : fetch s = .ok w)
    (hd : decode w = .ok i) : step s = afterCycle (exec i s.deliverTicks) := by
  rw [step_ready hm, readyCycle_exec ((fetch_deliverTicks s).trans hf) hd]

/-- Settles O6: the two bytes at the program counter are the word fetched. -/
theorem stepRunsDecodedInstruction : Obligations.StepRunsDecodedInstruction :=
  fun _ _ hm hp hd _ => step_of_fetch hm (fetch_ok (Nat.lt_of_succ_le hp)) hd

/-- The table word of a word's own value is the word. -/
theorem tableWord_toNat (w : Word) : tableWord 16 w.toNat = w := by
  rw [tableWord, Nat.mod_eq_of_lt w.isLt, BitVec.ofNat_toNat, BitVec.setWidth_eq]

/-- Settles O50: the word placed is the word fetched, and it decodes to the instruction encoded in it. -/
theorem placedWordIsTheOneExecuted : Obligations.PlacedWordIsTheOneExecuted := by
  intro s i hmem hp hwf
  rw [State.withFetchWord, tableWord_toNat]
  exact step_of_fetch rfl (fetch_placeWord hmem (Nat.lt_succ_of_le hp) _) (decodeEncodeRoundTrip i hwf)

/-! ### The errors before any instruction -/

theorem cycle_ready {s : State} (hm : s.mode = .ready) : cycle s = readyCycle s := by rw [cycle, hm]

/-- A cycle that raises before any instruction runs halts with its record and changes nothing else (R221). -/
theorem cycle_raise {s : State} {e : FatalError} (hm : s.mode = .ready) (h : readyCycle s = .next (raise e s)) :
    ∃ t, cycle s = .next t ∧ t.mode = .halted ∧ t.err = some e ∧ SameBut [.status] s t :=
  ⟨_, (cycle_ready hm).trans h, rfl, rfl, (SameBut.refl _ s).raise (by simp) e⟩

/-- Settles O9: the fetch is checked first (R223). -/
theorem fetchOutOfRangeHalts : Obligations.FetchOutOfRangeHalts :=
  fun _ hm hp => cycle_raise hm (readyCycle_fetchError hp)

/-- Settles O10: a word that the table names is fetched and not decoded. -/
theorem illegalWordHalts : Obligations.IllegalWordHalts := by
  intro s hm hp hillegal
  obtain ⟨r, hr⟩ := decode_error_of_not_legalWord hillegal
  exact cycle_raise hm (readyCycle_decodeError (fetch_ok (Nat.lt_succ_of_le hp)) hr)

/-- Settles O47: an empty memory reads as the illegal word 0x0000. -/
theorem nothingLoadedIsADecodeError : Obligations.NothingLoadedIsADecodeError :=
  ⟨rfl, illegalWordHalts State.reset rfl (by decide) (by decide)⟩

end Sys2Proof.Machine
end

section
/-! SUPPORT. The sampled inputs (R94): an instruction that does not sample a port acts the same whatever stands there. -/

namespace Sys2Proof.Machine

/-- The same state with another key level at the port. -/
def State.presentKey (s : State) (key : Option Key) : State := { s with input := { s.input with key := key } }

/-- The same state with another random byte at the port. -/
def State.presentRand (s : State) (rand : Byte) : State := { s with input := { s.input with rand := rand } }

/-- No meaning but those of `SKP` and `SKNP` mentions the key. -/
theorem act_presentKey {i : Instr} (hi : ∀ x, i ≠ .skpVx x ∧ i ≠ .sknpVx x) (s : State) (key : Option Key) :
    act i (s.presentKey key) = (act i s).presentKey key := by
  cases i
  case skpVx x => exact absurd rfl (hi x).1
  case sknpVx x => exact absurd rfl (hi x).2
  all_goals rfl

/-- No meaning but that of `RND` mentions the random byte. -/
theorem act_presentRand {i : Instr} (hi : ∀ x kk, i ≠ .rndVxKk x kk) (s : State) (rand : Byte) :
    act i (s.presentRand rand) = (act i s).presentRand rand := by
  cases i
  case rndVxKk x kk => exact absurd rfl (hi x kk)
  all_goals rfl

/-- Settles O55: the fatal errors and the actions alike carry the ports along. -/
theorem inputsAreSampledWhereTheRulesSay : Obligations.InputsAreSampledWhereTheRulesSay := by
  intro i s t key rand h
  refine ⟨fun hi => ?_, fun hi => ?_⟩
  · rcases exec_two_runs (s' := s.presentKey key) h rfl rfl with ⟨e, rfl, hu⟩ | ⟨-, rfl, hu⟩
    · exact hu
    · exact hu.trans (congrArg _ (act_presentKey hi s key))
  · rcases exec_two_runs (s' := s.presentRand rand) h rfl rfl with ⟨e, rfl, hu⟩ | ⟨-, rfl, hu⟩
    · exact hu
    · exact hu.trans (congrArg _ (act_presentRand hi s rand))

end Sys2Proof.Machine
end

section
/-! SUPPORT. Results with a flag (R21), and the two shifts (R149, R151). -/

namespace Sys2Proof.Machine

/-- Where the destination is not `VF`, it holds the result. -/
theorem State.setRegFlag_dest {x : RegIx} (hx : x ≠ 15) (s : State) (r : Byte × Bool) :
    (s.setRegFlag x r).reg x = r.1 := by
  rw [State.reg_setRegFlag, if_neg hx, if_pos rfl]

/-- The frame of an instruction that defines a flag result. -/
theorem setRegFlag_advance_sameBut (s : State) (x : RegIx) (r : Byte × Bool) :
    SameBut [.reg x, .reg 15, .pc] s (s.setRegFlag x r).advance :=
  ((SameBut.refl _ s).setRegFlag (by simp) (by simp) r).advance (by simp)

theorem flagByte_toNat (c : Bool) : (flagByte c).toNat = c.toNat := by cases c <;> rfl

theorem shrFlag_result (a : Byte) : (shrFlag a).1.toNat = a.toNat / 2 := by
  simp [shrFlag, Nat.shiftRight_eq_div_pow]

theorem shrFlag_flag (a : Byte) : (flagByte (shrFlag a).2).toNat = a.toNat % 2 := by
  rw [flagByte_toNat, shrFlag, BitVec.getLsbD, Nat.toNat_testBit]
  simp

theorem shlFlag_result (a : Byte) : (shlFlag a).1.toNat = a.toNat * 2 % 256 := by
  simp [shlFlag, Nat.shiftLeft_eq]

theorem shlFlag_flag (a : Byte) : (flagByte (shlFlag a).2).toNat = a.toNat / 128 := by
  have := a.isLt
  rw [flagByte_toNat, shlFlag, BitVec.getLsbD, Nat.toNat_testBit]
  omega

/-- The word of an instruction of family 8. -/
theorem formatR_family8_toNat (x y : RegIx) (n : BitVec 4) :
    (formatR 0x8 x y n).toNat = 0x8000 + n.toNat + x.val * 256 + y.val * 16 := by
  rw [formatR_toNat]; simp; omega

/-- Settles O26: the result goes to `V[x]` and the bit shifted out to `VF`, last. -/
theorem shiftsSetTheBitShiftedOut : Obligations.ShiftsSetTheBitShiftedOut := by
  intro x y s
  refine ⟨⟨formatR_family8_toNat x y 0x6, _, rfl, fun hx => ?_, ?_, rfl, setRegFlag_advance_sameBut s x _⟩,
    ⟨formatR_family8_toNat x y 0xE, _, rfl, fun hx => ?_, ?_, rfl, setRegFlag_advance_sameBut s x _⟩⟩
  · rw [State.advance_reg, State.setRegFlag_dest hx, shrFlag_result]
  · rw [State.advance_reg, State.setRegFlag_vf, shrFlag_flag]
  · rw [State.advance_reg, State.setRegFlag_dest hx, shlFlag_result]
  · rw [State.advance_reg, State.setRegFlag_vf, shlFlag_flag]

end Sys2Proof.Machine
end

section
/-! SUPPORT. Control flow (R121 to R127): the jumps, the register skips, and the parked machine (R268), whose steps are
the passing of time alone. -/

namespace Sys2Proof.Machine

/-! ### The boundary around a cycle (R232, R233) -/

theorem deliverTicks_sameBut (s : State) : SameBut [.dt, .st] s s.deliverTicks :=
  ((SameBut.refl [.dt, .st] s).setDt (by simp) (countDownN s.input.ticks s.dt)).setSt (by simp)
    (countDownN s.input.ticks s.st)

theorem presentNext_sameCore (ps : List Piece) (s : State) : SameCoreBut ps s s.presentNext := by
  unfold State.presentNext
  split
  · exact SameCoreBut.refl ps s
  · exact SameCoreBut.refl ps s

/-- A boundary's ticks and a new presentation, with nothing between them, change the timers alone. -/
theorem deliverTicks_presentNext_sameCore (s : State) : SameCoreBut [.dt, .st] s s.deliverTicks.presentNext :=
  (deliverTicks_sameBut s).1.trans (presentNext_sameCore _ _)

/-! ### The parked machine (R268) -/

/-- `JP` to its own address changes nothing, where that address fits in 12 bits. -/
theorem exec_jp_self {s : State} (h : s.pc.toNat < 4096) : exec (.jp (s.pc.setWidth 12)) s = .next s := by
  have hpc : addrOperand (s.pc.setWidth 12) = s.pc := by
    apply BitVec.eq_of_toNat_eq
    rw [addrOperand_toNat, BitVec.toNat_setWidth, Nat.mod_eq_of_lt h]
  exact congrArg (fun w => Host.Outcome.next (s.setPc w)) hpc

theorem State.Parked.step {s : State} (h : s.Parked) : step s = .next s.deliverTicks.presentNext := by
  obtain ⟨hm, hf⟩ := h
  have hpc : s.pc.toNat < 4096 := Nat.lt_succ_of_lt (fetch_ok_iff.1 hf).1
  rw [step_of_fetch hm hf (decodeEncodeRoundTrip (.jp _) rfl)]
  exact congrArg afterCycle (exec_jp_self (s := s.deliverTicks) hpc)

theorem State.Parked.deliverTicks_presentNext {s : State} (h : s.Parked) : s.deliverTicks.presentNext.Parked := by
  obtain ⟨hm, hf⟩ := h
  exact ⟨by simpa using hm, by simpa using hf⟩

/-- Settles O16, by induction on the number of steps: each is the boundary's ticks and a new presentation. -/
theorem parkedStaysParked : Obligations.ParkedStaysParked := by
  intro k s hs
  refine run_induction (P := fun t => t.Parked ∧ SameCoreBut [.dt, .st] s t) ?_ k ⟨hs, SameCoreBut.refl _ s⟩
  rintro t u ⟨hparked, hsame⟩ hu
  obtain rfl : u = t.deliverTicks.presentNext := by rw [hparked.step] at hu; cases hu; rfl
  exact ⟨hparked.deliverTicks_presentNext, hsame.trans (deliverTicks_presentNext_sameCore t)⟩

/-! ### The jumps (R121, R127) -/

/-- Settles O19: the address operand is the new `pc`. -/
theorem jumpOverwritesThePc : Obligations.JumpOverwritesThePc :=
  fun nnn s => ⟨formatA_toNat 0x1 nnn, _, rfl, addrOperand_toNat nnn, (SameBut.refl _ s).setPc (by simp) _⟩

/-- Settles O20: 12 bits and 8 bits add up to at most 0xFFF + 0xFF. -/
theorem jumpWithOffsetDoesNotWrap : Obligations.JumpWithOffsetDoesNotWrap := by
  intro nnn s
  have hsum := addrOperand_add_zext16_toNat nnn (s.reg 0)
  refine ⟨formatA_toNat 0xB nnn, _, rfl, hsum, ?_, (SameBut.refl _ s).setPc (by simp) _⟩
  have := nnn.isLt
  have := (s.reg 0).isLt
  rw [State.setPc_pc, hsum]; omega

/-! ### The register skips (R123 to R126) -/

theorem skipIf_beq_pc (s : State) (a b : Byte) :
    (s.skipIf (a == b)).pc = if a = b then s.pc + 4 else s.pc + 2 := by simp

theorem skipIf_bne_pc (s : State) (a b : Byte) :
    (s.skipIf (a != b)).pc = if a = b then s.pc + 2 else s.pc + 4 := by simp

theorem skipIf_sameBut (s : State) (c : Bool) : SameBut [.pc] s (s.skipIf c) := (SameBut.refl _ s).skipIf (by simp) c

/-- Settles O21: each of the four is a `skipIf` on the equality of two bytes, or on its negation. -/
theorem registerSkips : Obligations.RegisterSkips := fun x y kk s =>
  ⟨⟨formatI_toNat 0x3 x kk, _, rfl, skipIf_beq_pc s _ _, skipIf_sameBut s _⟩,
    ⟨formatI_toNat 0x4 x kk, _, rfl, skipIf_bne_pc s _ _, skipIf_sameBut s _⟩,
    ⟨formatR_toNat 0x5 x y 0x0, _, rfl, skipIf_beq_pc s _ _, skipIf_sameBut s _⟩,
    ⟨formatR_toNat 0x9 x y 0x0, _, rfl, skipIf_bne_pc s _ _, skipIf_sameBut s _⟩⟩

end Sys2Proof.Machine
end

section
/-! SUPPORT. The loads, the arithmetic, the logic and the random byte (R141 to R148, R150, R152). -/

namespace Sys2Proof.Machine

/-! ### One register is written, and no flag (R141 to R146, R152) -/

theorem reg_setReg_advance (s : State) (x : RegIx) (b : Byte) : (s.setReg x b).advance.reg x = b := by
  rw [State.advance_reg, State.reg_setReg_self]

/-- The frame of an instruction that writes one register and defines no flag. -/
theorem setReg_advance_sameBut (s : State) (x : RegIx) (b : Byte) : SameBut [.reg x, .pc] s (s.setReg x b).advance :=
  ((SameBut.refl _ s).setReg (by simp) b).advance (by simp)

/-- Settles O22: `V[x]` holds the value that the meaning writes, which for `ADD` is the sum modulo 256. -/
theorem loadsAndAddImmediate : Obligations.LoadsAndAddImmediate := by
  intro x y kk s
  refine ⟨⟨formatI_toNat 0x6 x kk, _, rfl, reg_setReg_advance s x _, rfl, setReg_advance_sameBut s x _⟩,
    ⟨formatI_toNat 0x7 x kk, _, rfl, ?_, rfl, setReg_advance_sameBut s x _⟩,
    ⟨formatR_family8_toNat x y 0x0, _, rfl, reg_setReg_advance s x _, rfl, setReg_advance_sameBut s x _⟩⟩
  rw [reg_setReg_advance, BitVec.toNat_add]

/-- Settles O23: each bit of the result is the operation on the two bits. -/
theorem logicOperations : Obligations.LogicOperations := by
  intro x y s
  refine ⟨⟨formatR_family8_toNat x y 0x1, _, rfl, fun j _ => ?_, rfl, setReg_advance_sameBut s x _⟩,
    ⟨formatR_family8_toNat x y 0x2, _, rfl, fun j _ => ?_, rfl, setReg_advance_sameBut s x _⟩,
    ⟨formatR_family8_toNat x y 0x3, _, rfl, fun j _ => ?_, rfl, setReg_advance_sameBut s x _⟩⟩
  · rw [reg_setReg_advance, BitVec.getLsbD_or]
  · rw [reg_setReg_advance, BitVec.getLsbD_and]
  · rw [reg_setReg_advance, BitVec.getLsbD_xor]

/-- Settles O27: a bit stands in the result where the presented byte and the mask both have it. -/
theorem randomByteUnderMask : Obligations.RandomByteUnderMask := by
  intro x kk s
  refine ⟨formatI_toNat 0xC x kk, _, rfl, fun j _ => ?_, rfl, setReg_advance_sameBut s x _⟩
  rw [reg_setReg_advance, BitVec.getLsbD_and]

/-! ### Results with a carry or a borrow (R147, R148, R150) -/

theorem addFlag_result (a b : Byte) : (addFlag a b).1.toNat = (a.toNat + b.toNat) % 256 := by
  rw [addFlag, BitVec.toNat_ofNat]

/-- The carry flag is 1 exactly when the sum exceeds 255 (R147). -/
theorem addFlag_flag (a b : Byte) : flagByte (addFlag a b).2 = if a.toNat + b.toNat > 255 then 1 else 0 := by
  simp [flagByte, addFlag]

theorem subFlag_result (a b : Byte) : (subFlag a b).1.toNat = (a.toNat + 256 - b.toNat) % 256 := by
  have := b.isLt
  rw [subFlag, BitVec.toNat_ofInt]
  omega

/-- The flag of a subtraction is 1 exactly when nothing is borrowed (R148, R150). -/
theorem subFlag_flag (a b : Byte) : flagByte (subFlag a b).2 = if a.toNat ≥ b.toNat then 1 else 0 := by
  simp [flagByte, subFlag]

/-- Settles O24: the sum goes to `V[x]` and the carry of the old values to `VF`, last. -/
theorem addSetsCarry : Obligations.AddSetsCarry := by
  intro x y s
  refine ⟨formatR_family8_toNat x y 0x4, _, rfl, fun hx => ?_, ?_, rfl, setRegFlag_advance_sameBut s x _⟩
  · rw [State.advance_reg, State.setRegFlag_dest hx, addFlag_result]
  · rw [State.advance_reg, State.setRegFlag_vf, addFlag_flag]

/-- What a subtraction leaves, whichever of the two operands is the minuend. -/
theorem setRegFlag_subFlag_advance (s : State) (x : RegIx) (a b : Byte) :
    let t := (s.setRegFlag x (subFlag a b)).advance
    (x ≠ 15 → (t.reg x).toNat = (a.toNat + 256 - b.toNat) % 256) ∧
      t.reg 15 = (if a.toNat ≥ b.toNat then 1 else 0) ∧ t.pc = s.pc + 2 ∧ SameBut [.reg x, .reg 15, .pc] s t := by
  refine ⟨fun hx => ?_, ?_, rfl, setRegFlag_advance_sameBut s x _⟩
  · rw [State.advance_reg, State.setRegFlag_dest hx, subFlag_result]
  · rw [State.advance_reg, State.setRegFlag_vf, subFlag_flag]

/-- Settles O25: `SUB` and `SUBN` are the same subtraction with the operands exchanged. -/
theorem subtractionsSetNoBorrow : Obligations.SubtractionsSetNoBorrow := fun x y s =>
  ⟨⟨formatR_family8_toNat x y 0x5, _, rfl, setRegFlag_subFlag_advance s x (s.reg x) (s.reg y)⟩,
    ⟨formatR_family8_toNat x y 0x7, _, rfl, setRegFlag_subFlag_advance s x (s.reg y) (s.reg x)⟩⟩

end Sys2Proof.Machine
end

section
/-! SUPPORT. The address register (R170 to R172) and the decimal digits (R173). -/

namespace Sys2Proof.Machine

/-! ### The decimal digits of a byte (R173) -/

/-- Each digit of a byte fits in the byte that holds it. -/
theorem bcdDigits_toNat (b : Byte) :
    (bcdDigits b).map BitVec.toNat = [b.toNat / 100, b.toNat / 10 % 10, b.toNat % 10] := by
  have := b.isLt
  simp [bcdDigits]; omega

/-- What `LD B, Vx` stores is read back as the digits, hundreds first. -/
theorem Memory.read_writeMany_bcdDigits {m : Memory} (h : m.wf = true) {a : Nat} (ha : a + 3 ≤ 4096) (b : Byte)
    {k : Nat} (hk : k < 3) :
    ((m.writeMany a (bcdDigits b)).read (a + k)).toNat = [b.toNat / 100, b.toNat / 10 % 10, b.toNat % 10][k] := by
  have hlen : (bcdDigits b).length = 3 := rfl
  rw [Memory.read_writeMany_inside h (bytes := bcdDigits b) ha (by omega)]
  simp only [← bcdDigits_toNat, List.getElem_map]

/-- Settles O31, by the two answers of the instruction; in range the three addresses are the block of digits. -/
theorem decimalDigitsStored : Obligations.DecimalDigitsStored := by
  intro x s
  refine ⟨(formatI_toNat 0xF x 0x33).trans (Nat.add_right_comm _ _ _), fun hwf hr => ?_, fun hr => ?_⟩
  · have hfits : s.effAddr 0 + 3 ≤ 4096 := Nat.succ_le_succ hr
    have hdigit {k : Nat} (hk : k < 3) := Memory.read_writeMany_bcdDigits hwf hfits (s.reg x) hk
    exact ⟨_, exec_ldBVx_ok x hfits, hdigit (k := 0) (by decide), hdigit (k := 1) (by decide),
      hdigit (k := 2) (by decide), fun _ ha => Memory.read_writeMany_outside (bytes := bcdDigits _) hwf hfits ha, rfl,
      ((SameBut.refl _ s).setMem (by simp) _).advance (by simp)⟩
  · exact ⟨_, exec_ldBVx_error x (Nat.succ_lt_succ hr), rfl, rfl, (SameBut.refl _ s).raise (by simp) _⟩

/-! ### The address register (R170 to R172) -/

/-- The frame of an instruction that writes the address register alone. -/
theorem setI_advance_sameBut (s : State) (w : Word) : SameBut [.i, .pc] s (s.setI w).advance :=
  ((SameBut.refl _ s).setI (by simp) w).advance (by simp)

theorem zext16_toNat (b : Byte) : (zext16 b).toNat = b.toNat := BitVec.toNat_setWidth_of_le (by decide)

/-- The address of a font digit does not wrap (R172). -/
theorem fontAddr_toNat (b : Byte) : (fontAddr b).toNat = 5 * (b.toNat % 16) := by
  rw [fontAddr, BitVec.toNat_ofNat, BitVec.extractLsb'_toNat]
  simp [Config.fontStride]; omega

/-- Settles O29: the address operand is the new `I`. -/
theorem loadAddressRegister : Obligations.LoadAddressRegister :=
  fun nnn s => ⟨formatA_toNat 0xA nnn, _, rfl, addrOperand_toNat nnn, rfl, setI_advance_sameBut s _⟩

/-- Settles O30: `I` holds a sum of words, which is modulo 65536, or a font address. -/
theorem addressRegisterComputed : Obligations.AddressRegisterComputed := by
  intro x s
  refine ⟨⟨(formatI_toNat 0xF x 0x1E).trans (Nat.add_right_comm _ _ _), _, rfl, ?_, rfl, setI_advance_sameBut s _⟩,
    ⟨(formatI_toNat 0xF x 0x29).trans (Nat.add_right_comm _ _ _), _, rfl, fontAddr_toNat _, rfl,
      setI_advance_sameBut s _⟩⟩
  exact (BitVec.toNat_add _ _).trans (by rw [zext16_toNat])

end Sys2Proof.Machine
end

section
/-! SUPPORT. The display: `CLS` (R192) and `DRW` (R191, R193). -/

namespace Sys2Proof.Machine

/-- Settles O37: every pixel of the new buffer is 0. -/
theorem clearDisplay : Obligations.ClearDisplay :=
  fun s => ⟨rfl, _, rfl, Display.pixel_clear, rfl, ((SameBut.refl _ s).setFb (by simp) _).advance (by simp)⟩

/-! ### One draw -/

theorem flagByte_eq_one_iff {c : Bool} : flagByte c = 1 ↔ c = true := by cases c <;> decide

theorem flagByte_eq_zero_iff {c : Bool} : flagByte c = 0 ↔ c = false := by cases c <;> decide

theorem encode_drw_toNat (x y : RegIx) {n : Nat} (hn : n ≤ 15) :
    (encode (.drw x y n)).toNat = 0xD000 + x.val * 256 + y.val * 16 + n := by
  have hdigit : (BitVec.ofNat 4 n).toNat = n := Nat.mod_eq_of_lt (Nat.lt_succ_of_le hn)
  exact (formatR_toNat 0xD x y _).trans (congrArg _ hdigit)

/-- `DrawSprite` of the `n` bytes at `I` plots the places that the sprite hits. -/
theorem drawSprite_drawnBy_spriteHits (s : State) (x0 y0 : Nat) {n : Nat} (hn : n ≤ 15) :
    DrawnBy (SpriteHits s x0 y0 n) (s.fb, false) (drawSprite x0 y0 (s.mem.readMany (s.effAddr 0) n) s.fb) := by
  have hrows : (s.mem.readMany (s.effAddr 0) n).length ≤ 32 := by rw [Memory.length_readMany]; omega
  refine (drawSprite_drawnBy x0 y0 _ s.fb hrows).congr fun r c => ?_
  simp only [Memory.length_readMany, Memory.getElem_readMany, exists_prop]
  exact Iff.rfl

/-- What is known of a `DRW` that answered with all its rows in memory: it left the drawing's buffer, and in `VF` its
collision. -/
theorem drawnBy_of_exec_drw {x y : RegIx} {n : Nat} {s t : State} (h : exec (.drw x y n) s = .next t) (hn : n ≤ 15)
    (hr : n = 0 ∨ s.effAddr n ≤ 4096) :
    ∃ d, t = ((s.setFb d.1).setReg 15 (flagByte d.2)).advance ∧
      DrawnBy (SpriteHits s (s.reg x).toNat (s.reg y).toNat n) (s.fb, false) d :=
  ⟨_, Host.Outcome.next.inj (h.symm.trans (exec_drw_ok x y hr)), drawSprite_drawnBy_spriteHits s _ _ hn⟩

/-- On a buffer without a collision so far, the collision tells whether a flipped pixel was set. -/
theorem DrawnBy.collision {P : Fin 32 → Fin 64 → Prop} {fb : Display} {d : Drawing} (h : DrawnBy P (fb, false) d) :
    d.2 = true ↔ ∃ r c, P r c ∧ fb.pixel r c = true := by
  obtain ⟨-, hcollision⟩ := h
  simpa using hcollision

/-- Settles O38, by the two answers of the instruction; in range, the drawing plots the places that the sprite hits. -/
theorem drawFlipsTheSpritesPixels : Obligations.DrawFlipsTheSpritesPixels := by
  intro x y n s hn
  refine ⟨encode_drw_toNat x y hn, fun hr => ?_, fun hpos hr => ?_⟩
  · have hdrawn := drawSprite_drawnBy_spriteHits s (s.reg x).toNat (s.reg y).toNat hn
    refine ⟨_, exec_drw_ok x y hr, hdrawn.1, ?_, ?_, rfl,
      (((SameBut.refl _ s).setFb (by simp) _).setReg (by simp) _).advance (by simp)⟩
    · rw [reg_setReg_advance, flagByte_eq_one_iff]
      exact hdrawn.collision.2
    · rw [reg_setReg_advance, flagByte_eq_zero_iff, ← hdrawn.collision]
      exact Bool.eq_false_of_not_eq_true
  · exact ⟨_, exec_drw_error x y ⟨Nat.ne_of_gt hpos, hr⟩, rfl, rfl, (SameBut.refl _ s).raise (by simp) _⟩

/-! ### The same draw twice -/

/-- A second drawing at the same places flips every pixel back, so it collides where the first one set a pixel. -/
theorem DrawnBy.twice {P : Fin 32 → Fin 64 → Prop} {fb : Display} {d d' : Drawing} (h : DrawnBy P (fb, false) d)
    (h' : DrawnBy P (d.1, false) d') :
    (∀ r c, d'.1.pixel r c = fb.pixel r c) ∧
      (d'.2 = true ↔ ∃ r c, fb.pixel r c = false ∧ d.1.pixel r c = true) := by
  rw [h'.collision]
  obtain ⟨hpix, -⟩ := h
  obtain ⟨hpix', -⟩ := h'
  refine ⟨fun r c => ?_, exists_congr fun r => exists_congr fun c => and_congr_left fun hset => ?_⟩
  · by_cases hp : P r c
    · rw [(hpix' r c).1 hp, (hpix r c).1 hp, Bool.not_not]
    · rw [(hpix' r c).2 hp, (hpix r c).2 hp]
  · by_cases hp : P r c
    · simpa [hp, hset] using (hpix r c).1 hp
    · simpa [hp, hset] using (hpix r c).2 hp

/-- Settles O39: `DRW` keeps `I` and the memory, so at the same coordinates the second draw plots the same places. -/
theorem drawnTwiceCancels : Obligations.DrawnTwiceCancels := by
  intro x y n s t u hn hr ht hx hy hu
  obtain ⟨d, rfl, hdrawn⟩ := drawnBy_of_exec_drw ht hn hr
  obtain ⟨d', rfl, hdrawn'⟩ := drawnBy_of_exec_drw hu hn hr
  rw [hx, hy] at hdrawn'
  rw [reg_setReg_advance, flagByte_eq_one_iff]
  exact hdrawn.twice hdrawn'

end Sys2Proof.Machine
end

section
/-! SUPPORT. The keypad (R200 to R202) and the timers (R203 to R205, R231). -/

namespace Sys2Proof.Machine

/-! ### The delay timer rises by a store alone (R203, R231) -/

/-- A boundary's ticks only count down (R231). -/
theorem deliverTicks_dt_le (s : State) : s.deliverTicks.dt.toNat ≤ s.dt.toNat := by
  rw [State.deliverTicks_dt, countDownN_toNat]
  exact Nat.sub_le _ _

theorem awaitCycle_dt (s : State) : (awaitCycle s).dt = s.dt := by
  cases hk : s.input.key with
  | none => rw [awaitCycle_none hk]
  | some k => rw [awaitCycle_some hk]; rfl

/-- A `Ready` cycle leaves `DT` as it is, unless the instruction at `pc` is `LD DT, Vx`. -/
theorem readyCycle_dt {s t : State} (hm : s.mode = .ready) (h : readyCycle s = .next t) :
    t.dt = s.dt ∨ ∃ x, s.Fetches (.ldDTVx x) := by
  rcases readyCycle_cases s with ⟨-, hr⟩ | ⟨w, r, -, -, hr⟩ | ⟨w, i, hf, hd, hr⟩ <;> rw [hr] at h
  · cases h; exact .inl rfl
  · cases h; exact .inl rfl
  · rcases exec_cases h hm with ⟨e, rfl⟩ | ⟨-, hdt | ⟨x, rfl⟩⟩ | ⟨x, -, rfl⟩
    · exact .inl rfl
    · exact .inl hdt
    · exact .inr ⟨x, w, hf, hd⟩
    · exact .inl rfl

/-- Settles O44, by the cases of a step: the ticks before the cycle do not raise `DT`, so the cycle changed it. -/
theorem delayTimerRisesOnlyByStore : Obligations.DelayTimerRisesOnlyByStore := by
  intro s t h hrise
  obtain ⟨u, rfl, hu⟩ := step_cases h
  rw [State.presentNext_dt] at hrise
  have hchanged : u.dt ≠ s.deliverTicks.dt := fun heq =>
    Nat.not_lt.2 (deliverTicks_dt_le s) (heq ▸ hrise)
  rcases hu with ⟨-, rfl⟩ | ⟨-, rfl⟩ | ⟨hm, hu⟩
  · exact absurd rfl hchanged
  · exact absurd (awaitCycle_dt _) hchanged
  · exact ⟨hm, (readyCycle_dt (s := s.deliverTicks) hm hu).resolve_left hchanged⟩

/-! ### The keypad (R200 to R202) -/

/-- The word of an instruction with one register operand: the row's pattern, and the register's field (R92). -/
theorem formatI_toNat_add_reg (f : BitVec 4) (x : RegIx) (kk : Byte) :
    (formatI f x kk).toNat = f.toNat * 4096 + kk.toNat + x.val * 256 :=
  (formatI_toNat f x kk).trans (Nat.add_right_comm _ _ _)

/-- A key code fits in the byte it is compared with and stored in. -/
theorem keyByte_toNat (k : Key) : (BitVec.ofNat 8 k.val).toNat = k.val :=
  Nat.mod_eq_of_lt (Nat.lt_trans k.isLt (by decide))

theorem keyIs_iff {key : Option Key} {b : Byte} :
    keyIs key b = true ↔ ∃ k : Key, key = some k ∧ k.val = b.toNat := by
  cases key with
  | none => simp [keyIs]
  | some k =>
    rw [keyIs, beq_iff_eq, BitVec.toNat_eq, keyByte_toNat]
    simp

/-- Settles O40: each of the two is a `skipIf` on the comparison of the key with `V[x]`, or on its negation. -/
theorem keySkips : Obligations.KeySkips := by
  intro x s
  simp only [← keyIs_iff]
  exact ⟨⟨formatI_toNat_add_reg 0xE x 0x9E, _, rfl, fun h => by simp [h],
      fun h => by simp [h], skipIf_sameBut s _⟩,
    ⟨formatI_toNat_add_reg 0xE x 0xA1, _, rfl, fun h => by simp [h],
      fun h => by simp [h], skipIf_sameBut s _⟩⟩

theorem SameBut.setMode {ps : List Piece} {s t : State} (h : SameBut ps s t) (hp : .status ∈ ps) (m : Mode) :
    SameBut ps s (t.setMode m) := by
  obtain ⟨hv, hi, hpc, hstack, hdt, hst, hfb, hmem, -, hwait⟩ := SameCoreBut.refl ps t
  exact h.trans ⟨⟨hv, hi, hpc, hstack, hdt, hst, hfb, hmem, (absurd hp ·), hwait⟩, rfl, rfl, rfl, rfl⟩

theorem cycle_awaiting {s : State} (hm : s.mode = .awaitingKey) : cycle s = .next (awaitCycle s) := by
  rw [cycle, hm]

/-- Settles O41, by the entry and the two answers of a poll. -/
theorem keyWait : Obligations.KeyWait := by
  intro x s
  refine ⟨⟨formatI_toNat_add_reg 0xF x 0x0A, _, rfl, rfl, rfl, rfl,
    (SameBut.refl _ s).enterWait (by simp) (by simp) x⟩, fun hm hk => ?_, fun k hm hk => ?_⟩
  · rw [cycle_awaiting hm, awaitCycle_none hk]
  · rw [cycle_awaiting hm, awaitCycle_some hk]
    refine ⟨_, rfl, ?_, rfl, rfl, rfl,
      (((SameBut.refl _ s).setReg (by simp) _).advance (by simp)).setMode (by simp) .ready⟩
    rw [State.setMode_reg, reg_setReg_advance, keyByte_toNat]

/-! ### The timer instructions (R203 to R205) -/

/-- The `sound_active` port shows whether `ST` runs (R28). -/
theorem State.soundActive_iff {s : State} : s.soundActive = true ↔ s.st ≠ 0 := bne_iff_ne

/-- Settles O42: the register or timer named by the instruction holds the value that the meaning writes. -/
theorem timerInstructions : Obligations.TimerInstructions := by
  intro x s
  refine ⟨⟨formatI_toNat_add_reg 0xF x 0x07, _, rfl, reg_setReg_advance s x _, rfl,
      setReg_advance_sameBut s x _⟩,
    ⟨formatI_toNat_add_reg 0xF x 0x15, _, rfl, rfl, rfl, ?_⟩,
    ⟨formatI_toNat_add_reg 0xF x 0x18, _, rfl, rfl, State.soundActive_iff, rfl, ?_⟩⟩
  · exact ((SameBut.refl _ s).setDt (by simp) _).advance (by simp)
  · exact ((SameBut.refl _ s).setSt (by simp) _).advance (by simp)

end Sys2Proof.Machine
end

section
/-! SUPPORT. The four fatal errors (R220 to R227): which check raises which, what a cycle that raises leaves, and the
halted machine, for which time alone goes on. First the passing of time itself: the tick and the next presentation
(R231 to R233). -/

namespace Sys2Proof.Machine

/-! ### Ticks (R231, R232) -/

theorem ticks_sameBut (n : Nat) (s : State) : SameBut [.dt, .st] s (s.ticks n) :=
  ((SameBut.refl [.dt, .st] s).setDt (by simp) (countDownN n s.dt)).setSt (by simp) (countDownN n s.st)

/-- Settles O43: `n` tick events are one count of `n`, which reads neither `MODE` nor anything else of the state. -/
theorem ticksCountDownToZero : Obligations.TicksCountDownToZero := by
  intro n s
  rw [← State.ticks_eq_iterate]
  exact ⟨countDownN_toNat n s.dt, countDownN_toNat n s.st, ticks_sameBut n s⟩

/-! ### The next presentation -/

theorem presentNext_of_script_cons {s : State} {p : Input} {rest : List Input} (h : s.script = p :: rest) :
    s.presentNext = { s with input := p, script := rest, started := true } := by
  simp only [State.presentNext, h]

theorem presentNext_of_script_nil {s : State} (h : s.script = []) :
    s.presentNext =
      { s with
        input := { key := Config.freeKey s.drawn, rand := Config.freeRand s.drawn, ticks := Config.freeTicks s.drawn }
        drawn := s.drawn + 1
        started := true } := by
  simp only [State.presentNext, h]

/-- Settles O7: the ticks by the count of a timer, the presentation by whether the script has an entry. -/
theorem stepAddsTicksAndPresentation : Obligations.StepAddsTicksAndPresentation := by
  intro s
  refine ⟨⟨countDownN_toNat _ s.dt, countDownN_toNat _ s.st, deliverTicks_sameBut s⟩,
    ⟨presentNext_sameCore [] s, State.presentNext_started s⟩, fun p rest h => ?_, fun h => ?_⟩
  · rw [presentNext_of_script_cons h]
    exact ⟨rfl, rfl, rfl⟩
  · rw [presentNext_of_script_nil h]
    exact ⟨rfl, rfl, rfl, h, rfl⟩

/-! ### Which check raises which error (R222) -/

/-- Where a range check from `I` fails, it reports an address above 4095. -/
theorem checkRange_effAddr_error {s : State} {n : Nat} {e : FatalError} (h : checkRange (s.effAddr 0) n = .error e) :
    ∃ a, e = .outOfRangeAccess a ∧ 4096 ≤ a.toNat :=
  ⟨_, checkRange_eq_error h, recordTrue_rangeError s s.i.isLt⟩

/-- Six instructions check something: `RET` and `CALL` the stack, the other four the range of their bytes. -/
theorem ownCheck_error_cases {i : Instr} {s : State} {e : FatalError} (h : ownCheck i s = .error e) :
    (i = .ret ∧ e = .stackUnderflow 0) ∨
    ((∃ nnn, i = .call nnn) ∧ e = .stackOverflow 16) ∨
    (((∃ x, i = .ldBVx x) ∨ (∃ x, i = .ldMemVx x) ∨ (∃ x, i = .ldVxMem x) ∨ (∃ x y n, i = .drw x y n ∧ 1 ≤ n)) ∧
      ∃ a, e = .outOfRangeAccess a ∧ 4096 ≤ a.toNat) := by
  cases i
  case ret =>
    simp only [ownCheck] at h
    split at h <;> cases h
    exact .inl ⟨rfl, rfl⟩
  case call nnn =>
    simp only [ownCheck] at h
    split at h <;> cases h
    exact .inr (.inl ⟨⟨nnn, rfl⟩, rfl⟩)
  case ldBVx x => exact .inr (.inr ⟨.inl ⟨x, rfl⟩, checkRange_effAddr_error h⟩)
  case ldMemVx x => exact .inr (.inr ⟨.inr (.inl ⟨x, rfl⟩), checkRange_effAddr_error h⟩)
  case ldVxMem x => exact .inr (.inr ⟨.inr (.inr (.inl ⟨x, rfl⟩)), checkRange_effAddr_error h⟩)
  case drw x y n =>
    have hn : n ≠ 0 := by rintro rfl; cases h
    exact .inr (.inr ⟨.inr (.inr (.inr ⟨x, y, n, rfl, Nat.pos_of_ne_zero hn⟩)), checkRange_effAddr_error h⟩)
  all_goals cases h

/-! ### What a fatal error leaves (R221) -/

/-- An instruction that acts does not halt a `Ready` machine: it stays `Ready` or enters the key wait. -/
theorem act_mode_ne_halted {s : State} (hm : s.mode = .ready) (i : Instr) : (act i s).mode ≠ .halted := by
  by_cases hk : ∃ x, i = .ldVxK x
  · obtain ⟨x, rfl⟩ := hk
    nofun
  · rw [act_mode (not_exists.1 hk), hm]
    nofun

/-- An instruction that halts a `Ready` machine is the fatal error its own check reports. -/
theorem exec_halted {i : Instr} {s t : State} (hm : s.mode = .ready) (h : exec i s = .next t)
    (ht : t.mode = .halted) : ∃ e, ownCheck i s = .error e ∧ t = raise e s := by
  rcases exec_next_cases h with herr | ⟨-, rfl⟩
  · exact herr
  · exact absurd ht (act_mode_ne_halted hm i)

/-- A `Ready` cycle that halts is `raise` on the state it began in, whichever of its three checks failed (R223). -/
theorem readyCycle_halted {s t : State} (hm : s.mode = .ready) (h : readyCycle s = .next t) (ht : t.mode = .halted) :
    ∃ e, t = raise e s := by
  rcases readyCycle_cases s with ⟨-, hr⟩ | ⟨w, r, -, -, hr⟩ | ⟨w, i, -, -, hr⟩ <;> rw [hr] at h
  · cases h; exact ⟨_, rfl⟩
  · cases h; exact ⟨_, rfl⟩
  · obtain ⟨e, -, he⟩ := exec_halted hm h ht
    exact ⟨e, he⟩

/-- Settles O14: what halts an instruction is its own check. -/
theorem onlySixInstructionsRaise : Obligations.OnlySixInstructionsRaise := by
  intro i s t hm h ht
  obtain ⟨e, hc, rfl⟩ := exec_halted hm h ht
  simpa only [raise_err, Option.some.injEq] using ownCheck_error_cases hc

/-- Settles O13: a cycle that halts is `raise` on the state it began in, which writes `MODE` and `ERR` alone. -/
theorem fatalErrorUndoesTheCycle : Obligations.FatalErrorUndoesTheCycle := by
  intro s t hm h ht
  rw [cycle_ready hm] at h
  obtain ⟨e, rfl⟩ := readyCycle_halted hm h ht
  exact ⟨rfl, (SameBut.refl _ s).raise (by simp) e⟩

/-! ### The halted machine (R226, R227) -/

theorem deliverTicks_st_le (s : State) : s.deliverTicks.st.toNat ≤ s.st.toNat := by
  rw [State.deliverTicks_st, countDownN_toNat]
  exact Nat.sub_le _ _

/-- `t` is a later state of the halted machine `s`: still halted, the same but for timers that did not rise. -/
structure HaltedLater (s t : State) : Prop where
  halted : t.mode = .halted
  same : SameCoreBut [.dt, .st] s t
  dt_le : t.dt.toNat ≤ s.dt.toNat
  st_le : t.st.toNat ≤ s.st.toNat

/-- One more step of a halted machine is a boundary's ticks and a new presentation. -/
theorem HaltedLater.step {s t u : State} (h : HaltedLater s t) (hu : step t = .next u) : HaltedLater s u := by
  obtain rfl : u = t.deliverTicks.presentNext := by rw [step_halted h.halted] at hu; cases hu; rfl
  exact {
    halted := by simpa using h.halted
    same := h.same.trans (deliverTicks_presentNext_sameCore t)
    dt_le := by rw [State.presentNext_dt]; exact (deliverTicks_dt_le t).trans h.dt_le
    st_le := by rw [State.presentNext_st]; exact (deliverTicks_st_le t).trans h.st_le }

/-- Settles O15, by induction on the number of steps. -/
theorem haltedStaysHalted : Obligations.HaltedStaysHalted := by
  intro k s hm
  have hstart : HaltedLater s s := ⟨hm, SameCoreBut.refl _ s, Nat.le_refl _, Nat.le_refl _⟩
  obtain ⟨t, hrun, ht⟩ := run_induction (fun _ _ => HaltedLater.step) k hstart
  exact ⟨t, hrun, ht.same, ht.dt_le, ht.st_le⟩

end Sys2Proof.Machine
end
